-- ==== Sys2Proof/Config.lean ====
section
/-! DEFINITION. The parameters the spec leaves open for one engine, fixed for all time (rules R8, R9, R34).
`ARG_BITS` and `MAX_TAPS` (R10) have no field: the model takes those operands as unbounded naturals and
finite lists (log 7). `N_INST` (R11) is the number of engines of a `System` (log 16). -/

namespace Sys2Proof

/-- The parameters of one engine. `topBit` is `W - 1`, so that `W >= 1` holds by construction (R8). -/
structure Config where
  /-- The number of the most significant bit of a word, `W - 1`. -/
  topBit : Nat
  /-- `HAS_POPCNT`: the platform has a hardware population count (R9). -/
  hasPopcnt : Bool
  deriving DecidableEq, Repr

/-- `W`, "the bit-width of the machine's native unsigned integer type" (R8). -/
abbrev Config.W (c : Config) : Nat := c.topBit + 1

/-- The parameters of the engine that `State.reset` stands for. DESIGN CHOICE, unsafe (log 1, 2): the spec gives
neither `W` nor `HAS_POPCNT` a value; 64 is the width of its own programs (`95_test_vectors.md` Part 3). -/
def Config.standard : Config := { topBit := 63, hasPopcnt := true }

end Sys2Proof
end

