-- ==== Sys2Proof/Word.lean ====
section
/-! DEFINITION. The native word (R8, R12): `W` bits, unsigned, bit 0 least significant. -/

namespace Sys2Proof

/-- A native word of `W` bits. `v.getLsbD i` is the spec's `v[i]` (R12). The operators of R14 are those of `BitVec`:
`&&&`, `|||`, `^^^`, `>>>` (logical) and `<<<` (truncating). -/
abbrev Word (W : Nat) := BitVec W

end Sys2Proof
end

