-- ==== Sys2Proof/Syntax.lean ====
section
/-! DEFINITION. What the host can present to an engine: the command record (R56), the reset event (R200), and the
twelve commands as syntax (R58). -/

namespace Sys2Proof

/-- The command record of R56: five fields presented whole. A command reads the ones its row of R58 names. -/
structure Command (W : Nat) where
  /-- `op[7:0]`, the opcode. -/
  op : BitVec 8
  /-- `a_width`, the width operand. -/
  aWidth : Nat
  /-- `a_taps`, the tap list, in order, repeats kept. -/
  aTaps : List Nat
  /-- `a_word`, the seed of CONSTRUCT.* or the value of SET. -/
  aWord : Word W
  /-- `a_count`, the count of MULTICLOCK. -/
  aCount : Nat
  deriving DecidableEq, Repr

/-- What the host does at one moment: present a command (R55) or reset the engine (R200). -/
inductive HostEvent (W : Nat) where
  | command (c : Command W)
  | reset
  deriving DecidableEq, Repr

/-- The three formats of R59. -/
inductive Format where
  /-- Construct, `op[7:4] = 0001`. -/
  | C
  /-- Operate, `op[7:4] = 0010`. -/
  | O
  /-- Builder, `op[7:4] = 0011`. -/
  | B
  deriving DecidableEq, Repr

/-- The twelve commands of R58 with the operands each uses, in the order of R65. A word operand is written as the
natural it stands for; `Instr.wellFormed` says that it fits in `W` bits (R56, R64; log 8). -/
inductive Instr where
  /-- CONSTRUCT.NAIVE (R110). -/
  | constructNaive (width : Nat) (taps : List Nat) (seed : Nat)
  /-- CONSTRUCT.COUNTONES (R120). -/
  | constructCountones (width : Nat) (taps : List Nat) (seed : Nat)
  /-- CONSTRUCT.POPCNT (R130). -/
  | constructPopcnt (width : Nat) (taps : List Nat) (seed : Nat)
  /-- CONSTRUCT.GALOIS (R140). -/
  | constructGalois (width : Nat) (taps : List Nat) (seed : Nat)
  /-- CONSTRUCT.GALOIS.FIB (R145). -/
  | constructGaloisFib (width : Nat) (taps : List Nat) (seed : Nat)
  /-- CLOCK (R92). -/
  | clock
  /-- MULTICLOCK (R98). -/
  | multiclock (count : Nat)
  /-- GET (R100). -/
  | get
  /-- SET (R101). -/
  | set (word : Nat)
  /-- TAPS (R103). -/
  | taps
  /-- WIDTH (R104). -/
  | width
  /-- TAPMASK (R85). -/
  | tapmask (width : Nat) (taps : List Nat)
  deriving DecidableEq, Repr

end Sys2Proof
end

