-- ==== Sys2Proof/WellFormed.lean ====
section
/-! DEFINITION. Which instruction terms can be presented to an engine of word width `W` (R56, R64). -/

namespace Sys2Proof

/-- A word operand is `W` bits by type: a seed or SET value too large for the word cannot be expressed (R64). Every
other operand is any natural or any finite list of naturals (R10), 0 and `[]` included. -/
def Instr.wellFormed (W : Nat) : Instr → Bool
  | .constructNaive _ _ seed => decide (seed < 2 ^ W)
  | .constructCountones _ _ seed => decide (seed < 2 ^ W)
  | .constructPopcnt _ _ seed => decide (seed < 2 ^ W)
  | .constructGalois _ _ seed => decide (seed < 2 ^ W)
  | .constructGaloisFib _ _ seed => decide (seed < 2 ^ W)
  | .clock => true
  | .multiclock _ => true
  | .get => true
  | .set word => decide (word < 2 ^ W)
  | .taps => true
  | .width => true
  | .tapmask _ _ => true

end Sys2Proof
end

