-- ==== Sys2Proof/Decode.lean ====
section
/-! DEFINITION. From command records to instructions and back: the opcode map and the formats (R58, R59), reserved
encodings (R62), unused operand fields (R63), the mnemonics (R65). -/

namespace Sys2Proof

/-- Why a command record is no instruction. -/
inductive DecodeError where
  /-- The opcode is not in the table of R58 (R62). -/
  | reservedOpcode (op : BitVec 8)
  deriving DecidableEq, Repr

/-- The opcode map of R58, selected by the full 8 bits of `op`. Fields the command does not use are ignored (R63);
the others are used exactly as presented (R64). -/
def decode {W : Nat} (c : Command W) : Except DecodeError Instr :=
  match c.op.toNat with
  | 0x10 => .ok (.constructNaive c.aWidth c.aTaps c.aWord.toNat)
  | 0x11 => .ok (.constructCountones c.aWidth c.aTaps c.aWord.toNat)
  | 0x12 => .ok (.constructPopcnt c.aWidth c.aTaps c.aWord.toNat)
  | 0x13 => .ok (.constructGalois c.aWidth c.aTaps c.aWord.toNat)
  | 0x14 => .ok (.constructGaloisFib c.aWidth c.aTaps c.aWord.toNat)
  | 0x20 => .ok .clock
  | 0x21 => .ok (.multiclock c.aCount)
  | 0x22 => .ok .get
  | 0x23 => .ok (.set c.aWord.toNat)
  | 0x24 => .ok .taps
  | 0x25 => .ok .width
  | 0x30 => .ok (.tapmask c.aWidth c.aTaps)
  | _ => .error (.reservedOpcode c.op)

/-- The `op` column of R58. -/
def Instr.opcode : Instr → BitVec 8
  | .constructNaive _ _ _ => 0x10#8
  | .constructCountones _ _ _ => 0x11#8
  | .constructPopcnt _ _ _ => 0x12#8
  | .constructGalois _ _ _ => 0x13#8
  | .constructGaloisFib _ _ _ => 0x14#8
  | .clock => 0x20#8
  | .multiclock _ => 0x21#8
  | .get => 0x22#8
  | .set _ => 0x23#8
  | .taps => 0x24#8
  | .width => 0x25#8
  | .tapmask _ _ => 0x30#8

/-- The `format` column of R58. -/
def Instr.format : Instr → Format
  | .constructNaive _ _ _ => .C
  | .constructCountones _ _ _ => .C
  | .constructPopcnt _ _ _ => .C
  | .constructGalois _ _ _ => .C
  | .constructGaloisFib _ _ _ => .C
  | .clock => .O
  | .multiclock _ => .O
  | .get => .O
  | .set _ => .O
  | .taps => .O
  | .width => .O
  | .tapmask _ _ => .B

/-- The group `op[7:4]` of each format (R59). -/
def Format.group : Format → BitVec 4
  | .C => 0b0001#4
  | .O => 0b0010#4
  | .B => 0b0011#4

/-- The `mnemonic` column of R58. -/
def Instr.mnemonic : Instr → String
  | .constructNaive _ _ _ => "CONSTRUCT.NAIVE"
  | .constructCountones _ _ _ => "CONSTRUCT.COUNTONES"
  | .constructPopcnt _ _ _ => "CONSTRUCT.POPCNT"
  | .constructGalois _ _ _ => "CONSTRUCT.GALOIS"
  | .constructGaloisFib _ _ _ => "CONSTRUCT.GALOIS.FIB"
  | .clock => "CLOCK"
  | .multiclock _ => "MULTICLOCK"
  | .get => "GET"
  | .set _ => "SET"
  | .taps => "TAPS"
  | .width => "WIDTH"
  | .tapmask _ _ => "TAPMASK"

/-- A tap list as R65 writes it: `[t1, t2, ...]`, the empty list `[]`, numbers in decimal. -/
def showList (xs : List Nat) : String := "[" ++ String.intercalate ", " (xs.map Nat.repr) ++ "]"

/-- An instruction as R65 writes it: the mnemonic, then the operands in the order `width, taps, seed` for format C,
`width, taps` for format B, the single operand for MULTICLOCK and SET. -/
def Instr.assembly (i : Instr) : String :=
  match i with
  | .constructNaive w ts x => i.mnemonic ++ " " ++ w.repr ++ ", " ++ showList ts ++ ", " ++ x.repr
  | .constructCountones w ts x => i.mnemonic ++ " " ++ w.repr ++ ", " ++ showList ts ++ ", " ++ x.repr
  | .constructPopcnt w ts x => i.mnemonic ++ " " ++ w.repr ++ ", " ++ showList ts ++ ", " ++ x.repr
  | .constructGalois w ts x => i.mnemonic ++ " " ++ w.repr ++ ", " ++ showList ts ++ ", " ++ x.repr
  | .constructGaloisFib w ts x => i.mnemonic ++ " " ++ w.repr ++ ", " ++ showList ts ++ ", " ++ x.repr
  | .clock => i.mnemonic
  | .multiclock n => i.mnemonic ++ " " ++ n.repr
  | .get => i.mnemonic
  | .set x => i.mnemonic ++ " " ++ x.repr
  | .taps => i.mnemonic
  | .width => i.mnemonic
  | .tapmask w ts => i.mnemonic ++ " " ++ w.repr ++ ", " ++ showList ts

/-- The four operand fields of R56, for the "operands used" column of R58. -/
structure OperandUse where
  usesWidth : Bool
  usesTaps : Bool
  usesWord : Bool
  usesCount : Bool
  deriving DecidableEq, Repr

/-- The "operands used" column of R58 (R59: "operands read"), by opcode; a reserved opcode uses none. -/
def operandUse (op : BitVec 8) : OperandUse :=
  match op.toNat with
  | 0x10 => ⟨true, true, true, false⟩
  | 0x11 => ⟨true, true, true, false⟩
  | 0x12 => ⟨true, true, true, false⟩
  | 0x13 => ⟨true, true, true, false⟩
  | 0x14 => ⟨true, true, true, false⟩
  | 0x21 => ⟨false, false, false, true⟩
  | 0x23 => ⟨false, false, true, false⟩
  | 0x30 => ⟨true, true, false, false⟩
  | _ => ⟨false, false, false, false⟩

/-- The record with every operand field the command does not use cleared. -/
def Command.normalise {W : Nat} (c : Command W) : Command W :=
  { op := c.op
    aWidth := if (operandUse c.op).usesWidth then c.aWidth else 0
    aTaps := if (operandUse c.op).usesTaps then c.aTaps else []
    aWord := if (operandUse c.op).usesWord then c.aWord else 0#W
    aCount := if (operandUse c.op).usesCount then c.aCount else 0 }

/-- The record of an instruction: its opcode and its operands, every unused field 0 or `[]`. -/
def encode (W : Nat) : Instr → Command W
  | .constructNaive w ts x => ⟨0x10#8, w, ts, BitVec.ofNat W x, 0⟩
  | .constructCountones w ts x => ⟨0x11#8, w, ts, BitVec.ofNat W x, 0⟩
  | .constructPopcnt w ts x => ⟨0x12#8, w, ts, BitVec.ofNat W x, 0⟩
  | .constructGalois w ts x => ⟨0x13#8, w, ts, BitVec.ofNat W x, 0⟩
  | .constructGaloisFib w ts x => ⟨0x14#8, w, ts, BitVec.ofNat W x, 0⟩
  | .clock => ⟨0x20#8, 0, [], 0#W, 0⟩
  | .multiclock n => ⟨0x21#8, 0, [], 0#W, n⟩
  | .get => ⟨0x22#8, 0, [], 0#W, 0⟩
  | .set x => ⟨0x23#8, 0, [], BitVec.ofNat W x, 0⟩
  | .taps => ⟨0x24#8, 0, [], 0#W, 0⟩
  | .width => ⟨0x25#8, 0, [], 0#W, 0⟩
  | .tapmask w ts => ⟨0x30#8, w, ts, 0#W, 0⟩

/-- The command record whose table bits are the low `nbits` bits of `w`: `op` is bits 7 to 0, and every operand field is
zero, since the table gives the operand fields no bits (R59; log 12). -/
def Command.ofTableWord (W nbits w : Nat) : Command W :=
  { op := BitVec.ofNat 8 (w % 2 ^ nbits), aWidth := 0, aTaps := [], aWord := 0#W, aCount := 0 }

/-- The instruction the decoder reads from a table word. -/
def decodeTableWord (nbits w : Nat) : Option Instr :=
  match decode (Command.ofTableWord Config.standard.W nbits w) with
  | .ok i => some i
  | .error _ => none

end Sys2Proof
end

