-- ==== Sys2Proof/Machine/State.lean ====
section
/-! DEFINITION. The state of one engine and its two ports (R20 to R34, R55 to R57), and the state after reset (R33). -/

namespace Sys2Proof.Machine

/-- VARIANT, "an enumerated sum type over the four variants" (R24). -/
inductive Variant where
  | naive
  | countones
  | popcnt
  | galois
  deriving DecidableEq, Repr

/-- The values of CFG (R21). -/
inductive Cfg where
  | unconfigured
  | configured
  deriving DecidableEq, Repr

/-- The five registers that hold a value while an engine is configured (R20). Words are `W` bits. -/
structure Registers (W : Nat) where
  /-- VARIANT (R24). -/
  variant : Variant
  /-- WIDTH (R22). -/
  width : Nat
  /-- TAPS (R23), in order, repeats kept. -/
  taps : List Nat
  /-- TAPMASK (R25). -/
  tapmask : Word W
  /-- STATE (R26), all `W` bits. -/
  state : Word W
  deriving DecidableEq, Repr

/-- The two validation errors with the numbers each records (R181, R182). -/
inductive BuildError where
  /-- UnsupportedWidth, recording `e_width` (R181). -/
  | unsupportedWidth (eWidth : Nat)
  /-- TapOutOfRange, recording `e_tap` and `e_width` (R182). -/
  | tapOutOfRange (eTap : Nat) (eWidth : Nat)
  deriving DecidableEq, Repr

/-- The response record of R57: one constructor per kind of payload, the status being read off it (`Response.status`). -/
inductive Response (W : Nat) where
  /-- Status OK, no payload: CONSTRUCT.*, SET. -/
  | ok
  /-- `r_bit`: CLOCK. -/
  | bit (b : Bool)
  /-- `r_bits`, first output bit first: MULTICLOCK. -/
  | bits (bs : List Bool)
  /-- `r_word`: GET, TAPMASK. -/
  | word (w : Word W)
  /-- `r_nat`: WIDTH. -/
  | nat (n : Nat)
  /-- `r_list`: TAPS. -/
  | list (ts : List Nat)
  /-- An error status with `e_width`, or `e_tap` and `e_width`. -/
  | error (e : BuildError)
  deriving DecidableEq, Repr

/-- One engine with its two ports. -/
structure State where
  /-- `W` and `HAS_POPCNT`: parameters, fixed for all time (R34); no step writes them (log 1, 2). -/
  params : Config
  /-- The registers. `none` is CFG = UNCONFIGURED, "a state with no instance" (R33); `some` is CFG = CONFIGURED (log 3). -/
  regs : Option (Registers params.W)
  /-- What the host will present, oldest first: the command port (R55, R50; log 4). -/
  inputs : List (HostEvent params.W)
  /-- What the engine has answered, oldest first: the response port (R55, R57; log 5). -/
  responses : List (Response params.W)
  deriving DecidableEq, Repr

/-- CFG (R21): whether an instance exists. -/
def State.cfg (s : State) : Cfg :=
  match s.regs with
  | none => .unconfigured
  | some _ => .configured

/-- The engine with parameters `c` right after reset or power-on (R33, R200): unconfigured, nothing presented, nothing
answered. -/
abbrev State.resetWith (c : Config) : State :=
  { params := c, regs := none, inputs := [], responses := [] }

/-- The machine right after reset (R33). `W` and `HAS_POPCNT` are those of `Config.standard` (log 1, 2). -/
def State.reset : State := State.resetWith Config.standard

/-- Why a step can stop with a fault: nothing. "No command of a configured engine can overflow, underflow, divide or
index out of range, so the model has no fault state beyond the two errors" (R188), and the two errors are responses, not
stops (R185, R189; log 20). -/
inductive Fault where
  deriving DecidableEq, Repr

/-- Why the model gives a command no step. -/
inductive Refusal where
  /-- Raised by `exec` for an instruction that has no meaning yet. Safe. No arm raises it. -/
  | notModelled (mnemonic : String)
  /-- Raised by `step` for an opcode outside the table of R58: "A reserved opcode is REFUSED" (R62). Safe (log 9). -/
  | reservedOpcode (op : BitVec 8)
  /-- Raised by CLOCK, MULTICLOCK, GET, SET, TAPS and WIDTH while CFG = UNCONFIGURED: "REFUSED: the model gives it no
  step and no response" (R91). Safe (log 10). -/
  | unconfigured
  deriving DecidableEq, Repr

end Sys2Proof.Machine
end

