-- ==== Sys2Proof/Machine/Flags.lean ====
section
/-! DEFINITION. The codes the interface shows. The engine has no flag, condition code or sticky error bit (R29); the one
condition it reports is the status of a response (R61), which is not held after the response. Here too stands the 2-bit
code of VARIANT (R60), visible to no command. -/

namespace Sys2Proof.Machine

/-- The three statuses a response can have (R61); code `11` "is never produced". -/
inductive Status where
  | ok
  | errUnsupportedWidth
  | errTapOutOfRange
  deriving DecidableEq, Repr

/-- `status[1:0]` (R61). -/
def Status.code : Status → BitVec 2
  | .ok => 0b00#2
  | .errUnsupportedWidth => 0b01#2
  | .errTapOutOfRange => 0b10#2

/-- The status of each error (R181, R182). -/
def BuildError.status : BuildError → Status
  | .unsupportedWidth _ => .errUnsupportedWidth
  | .tapOutOfRange _ _ => .errTapOutOfRange

/-- The status field of a response record (R57): every payload but an error's comes with OK. -/
def Response.status {W : Nat} : Response W → Status
  | .ok => .ok
  | .bit _ => .ok
  | .bits _ => .ok
  | .word _ => .ok
  | .nat _ => .ok
  | .list _ => .ok
  | .error e => e.status

/-- A response as R65 writes it after `=>`, numbers in decimal. -/
def Response.assembly {W : Nat} : Response W → String
  | .ok => "OK"
  | .bit b => "OK " ++ b.toNat.repr
  | .bits bs => "OK " ++ showList (bs.map Bool.toNat)
  | .word w => "OK " ++ w.toNat.repr
  | .nat n => "OK " ++ n.repr
  | .list ts => "OK " ++ showList ts
  | .error (.unsupportedWidth w) => "ERR_UNSUPPORTED_WIDTH(" ++ w.repr ++ ")"
  | .error (.tapOutOfRange t w) => "ERR_TAP_OUT_OF_RANGE(" ++ t.repr ++ ", " ++ w.repr ++ ")"

/-- The 2-bit encoding of the VARIANT register (R60). -/
def Variant.code : Variant → BitVec 2
  | .naive => 0b00#2
  | .countones => 0b01#2
  | .popcnt => 0b10#2
  | .galois => 0b11#2

end Sys2Proof.Machine
end

