-- ==== Sys2Proof/Machine/Operands.lean ====
section
/-! DEFINITION. Operand assembly (R64) and the mirroring of tap operands (R147). -/

namespace Sys2Proof.Machine

/-- A word operand as a `W`-bit word. "There is no immediate embedded in `op`, no sign extension, no scaling and no
shifting of an operand" (R64): on a well-formed instruction this is the word the host presented; a natural of `2^W` or
more cannot be presented, and no step reaches one (log 8). -/
def wordOperand (W : Nat) (x : Nat) : Word W := BitVec.ofNat W x

/-- `mirror_w(t) = w - t + 1` (R147), used only after the taps have been validated (R148), so that the subtraction is
exact. -/
def mirror (width t : Nat) : Nat := width - t + 1

/-- `map (t -> width - t + 1) taps` (R145): same order, same length. -/
def mirrorTaps (width : Nat) (taps : List Nat) : List Nat := taps.map (mirror width)

end Sys2Proof.Machine
end

