-- ==== Sys2Proof/Machine/Ops.lean ====
section
/-! DEFINITION. The shared operations: words (R14, R15, R18), the tapmask builder (R75 to R82), the feedback and step
functions (R93, R111, R112, R121, R131, R141), repeated clocking (R98), how a command ends (R18, R55), the two errors
(R185), and reset (R200). -/

namespace Sys2Proof.Machine

/-! ## Words -/

/-- `zext_W(b)`: the bit `b` as a `W`-bit word, value 0 or 1 (R18). -/
def zext (W : Nat) (b : Bool) : Word W := if b then 1#W else 0#W

/-- `popcount(v)`: "the number of indices `i` in `[0, W - 1]` with `v[i] = 1`" (R15). -/
def popcount {W : Nat} (v : Word W) : Nat := (List.range W).countP fun i => v.getLsbD i

/-- `parity(v) = popcount(v) mod 2`, one bit (R15). -/
def parity {W : Nat} (v : Word W) : Bool := popcount v % 2 == 1

/-- `XOR_{t in xs} f(t)`: "the exclusive-or of `f(t)` over every element of `xs`, repeated elements included, and is 0 for
the empty list" (R17). -/
def xorOver (xs : List Nat) (f : Nat → Bool) : Bool := xs.foldl (fun b t => b ^^ f t) false

/-! ## The tapmask builder -/

/-- `mask(taps)`: bit `t - 1` is set for every element `t` (R80). -/
def mask (W : Nat) (taps : List Nat) : Word W :=
  taps.foldl (fun m t => m ||| (1#W <<< (t - 1))) 0#W

/-- The general, multi-word placement of R81: tap `t` sets bit `(t - 1) mod W` in word `(t - 1) / W`. -/
def maskWord (W : Nat) (taps : List Nat) (k : Nat) : Word W :=
  (taps.filter fun t => (t - 1) / W == k).foldl (fun m t => m ||| (1#W <<< ((t - 1) % W))) 0#W

/-- The masks of R81, "one mask per machine word needed to cover `width` bits", `ceil(width / W)` of them (R82). The
engine stores one word only; this function is here to state that the general placement comes to the same. -/
def maskWords (W width : Nat) (taps : List Nat) : List (Word W) :=
  (List.range ((width + W - 1) / W)).map (maskWord W taps)

/-- The test of R78: `t < 1 or t > width`. -/
def tapBad (width t : Nat) : Bool := decide (t < 1) || decide (width < t)

/-- `build(width, taps)` (R75): the width checks of R76 and R77, then the taps in list order (R78), then the mask (R80).
At most one error, the first (R79, R184). -/
def build (W width : Nat) (taps : List Nat) : Except BuildError (Word W) :=
  if W < width then .error (.unsupportedWidth width)
  else if width = 0 ∧ taps = [] then .error (.unsupportedWidth 0)
  else
    match taps.find? (tapBad width) with
    | some t => .error (.tapOutOfRange t width)
    | none => .ok (mask W taps)

/-! ## The step functions -/

/-- `fb_fold(taps, s) = XOR_{t in taps} s[t - 1]`, repeated elements each time, 0 for the empty list (R111). -/
def fbFold {W : Nat} (taps : List Nat) (s : Word W) : Bool :=
  xorOver taps fun t => s.getLsbD (t - 1)

/-- `fb_parity(tapmask, s) = popcount(s & tapmask) mod 2` (R121). -/
def fbParity {W : Nat} (tapmask s : Word W) : Bool := parity (s &&& tapmask)

/-- The hardware population-count instruction, "assumed to return `popcount(v)` of rule R15 for a `W`-bit operand"
(R133). -/
def hardwarePopcount {W : Nat} (v : Word W) : Nat := popcount v

/-- `fb_popcnt` (R131): by the hardware instruction where the platform has it, else by the fallback, which computes as
COUNTONES does (R132). -/
def fbPopcnt {W : Nat} (hasPopcnt : Bool) (tapmask s : Word W) : Bool :=
  if hasPopcnt then hardwarePopcount (s &&& tapmask) % 2 == 1 else fbParity tapmask s

/-- `fib_step(width, fb, s) = (s >> 1) | (zext_W(fb) << (width - 1))` (R112), on all `W` bits (log 14). -/
def fibStep {W : Nat} (width : Nat) (fb : Bool) (s : Word W) : Word W :=
  (s >>> 1) ||| (zext W fb <<< (width - 1))

/-- `gal_step(tapmask, s) = (s >> 1) ^ (if s[0] = 1 then tapmask else 0)` (R141). -/
def galStep {W : Nat} (tapmask s : Word W) : Word W :=
  (s >>> 1) ^^^ (if s.getLsbD 0 then tapmask else 0#W)

/-- `step(v, width, taps, tapmask, s)`, the dispatch on the variant (R93). -/
def nextWord {W : Nat} (hasPopcnt : Bool) (v : Variant) (width : Nat) (taps : List Nat) (tapmask s : Word W) : Word W :=
  match v with
  | .naive => fibStep width (fbFold taps s) s
  | .countones => fibStep width (fbParity tapmask s) s
  | .popcnt => fibStep width (fbPopcnt hasPopcnt tapmask s) s
  | .galois => galStep tapmask s

/-- "Output bit = `state & 1`" in all four variants (R92, R93). -/
def Registers.out {W : Nat} (r : Registers W) : Bool := r.state.getLsbD 0

/-- The registers after one clock: STATE alone is written (R92). -/
def Registers.clocked {W : Nat} (hasPopcnt : Bool) (r : Registers W) : Registers W :=
  { r with state := nextWord hasPopcnt r.variant r.width r.taps r.tapmask r.state }

/-- The loop of R98: the output bits of `n` clocks in call order, and the registers after them. -/
def clockLoop {W : Nat} (hasPopcnt : Bool) : Nat → Registers W → List Bool × Registers W
  | 0, r => ([], r)
  | n + 1, r => (r.out :: (clockLoop hasPopcnt n (r.clocked hasPopcnt)).1, (clockLoop hasPopcnt n (r.clocked hasPopcnt)).2)

/-! ## How a command ends -/

/-- The end of a command: "all writes of one rule take effect together at the end of the command" (R18, R48), and the
engine "produces exactly one response record" (R55). Every next state of every command is of this form. -/
abbrev State.complete (s : State) (regs : Option (Registers s.params.W)) (resp : Response s.params.W) : State :=
  { s with regs := regs, responses := s.responses ++ [resp] }

/-- What an error does (R185): "the command ends with the error status and its info; no register is written; nothing is
saved, no cause register exists, no mode changes, control goes nowhere". There is no handler and so no return from one
(R186): the engine accepts the next command as it would have before. -/
abbrev State.raise (s : State) (e : BuildError) : State := s.complete s.regs (.error e)

/-- Format-O commands need an instance (R91): refused while CFG = UNCONFIGURED. -/
def State.requireConfigured (s : State) (run : Registers s.params.W → State) : Host.Outcome State Fault Refusal :=
  match s.regs with
  | none => .refused .unconfigured
  | some r => .next (run r)

/-- The common body of the constructors (R94): validate, then write all six registers, or raise and write none (R96). -/
def State.construct (s : State) (v : Variant) (width : Nat) (taps : List Nat) (seed : Word s.params.W) : State :=
  match build s.params.W width taps with
  | .error e => s.raise e
  | .ok m => s.complete (some { variant := v, width := width, taps := taps, tapmask := m, state := seed }) .ok

/-- The reset event (R200): "CFG becomes `UNCONFIGURED` and the other five registers lose their values". It gives no
response and leaves the ports alone (log 6). -/
abbrev State.resetEngine (s : State) : State := { s with regs := none }

/-- The host's next event is taken off the command port. -/
abbrev State.withInputs (s : State) (rest : List (HostEvent s.params.W)) : State := { s with inputs := rest }

/-- The host presents `c` as its next command, ahead of anything it had still to present. -/
abbrev State.present (s : State) (c : Command s.params.W) : State := { s with inputs := .command c :: s.inputs }

end Sys2Proof.Machine
end

