-- ==== Sys2Proof/Machine/Builder.lean ====
section
/-! DEFINITION. The format-B command: the tapmask builder on its own (R85). -/

namespace Sys2Proof.Machine

/-- TAPMASK (R85): accepted in either value of CFG, reads and writes no register. -/
def execTapmask (width : Nat) (taps : List Nat) (s : State) : Host.Outcome State Fault Refusal :=
  match build s.params.W width taps with
  | .error e => .next (s.raise e)
  | .ok m => .next (s.complete s.regs (.word m))

end Sys2Proof.Machine
end

