-- ==== Sys2Proof/Machine/Construct.lean ====
section
/-! DEFINITION. The format-C commands: the five constructors (R94, R110, R120, R130, R140, R145). -/

namespace Sys2Proof.Machine

/-- CONSTRUCT.NAIVE (R110). -/
def execConstructNaive (width : Nat) (taps : List Nat) (seed : Nat) (s : State) : Host.Outcome State Fault Refusal :=
  .next (s.construct .naive width taps (wordOperand s.params.W seed))

/-- CONSTRUCT.COUNTONES (R120). -/
def execConstructCountones (width : Nat) (taps : List Nat) (seed : Nat) (s : State) : Host.Outcome State Fault Refusal :=
  .next (s.construct .countones width taps (wordOperand s.params.W seed))

/-- CONSTRUCT.POPCNT (R130), "accepted whatever `HAS_POPCNT` is". -/
def execConstructPopcnt (width : Nat) (taps : List Nat) (seed : Nat) (s : State) : Host.Outcome State Fault Refusal :=
  .next (s.construct .popcnt width taps (wordOperand s.params.W seed))

/-- CONSTRUCT.GALOIS (R140). -/
def execConstructGalois (width : Nat) (taps : List Nat) (seed : Nat) (s : State) : Host.Outcome State Fault Refusal :=
  .next (s.construct .galois width taps (wordOperand s.params.W seed))

/-- CONSTRUCT.GALOIS.FIB (R145): the taps are validated as given (R148), then mirrored, then handed to the direct
constructor; the seed is not transformed (log 13). -/
def execConstructGaloisFib (width : Nat) (taps : List Nat) (seed : Nat) (s : State) : Host.Outcome State Fault Refusal :=
  match build s.params.W width taps with
  | .error e => .next (s.raise e)
  | .ok _ => .next (s.construct .galois width (mirrorTaps width taps) (wordOperand s.params.W seed))

end Sys2Proof.Machine
end

