-- ==== Sys2Proof/Machine/Operate.lean ====
section
/-! DEFINITION. The format-O commands: the register contract (R90 to R93, R97 to R104). -/

namespace Sys2Proof.Machine

/-- CLOCK (R92): return the old bit 0 and advance STATE by one step. -/
def execClock (s : State) : Host.Outcome State Fault Refusal :=
  s.requireConfigured fun r => s.complete (some (r.clocked s.params.hasPopcnt)) (.bit r.out)

/-- MULTICLOCK (R98, R99): `n` clocks as one command. -/
def execMulticlock (count : Nat) (s : State) : Host.Outcome State Fault Refusal :=
  s.requireConfigured fun r =>
    s.complete (some (clockLoop s.params.hasPopcnt count r).2) (.bits (clockLoop s.params.hasPopcnt count r).1)

/-- GET (R100): all `W` bits of STATE, no register written. -/
def execGet (s : State) : Host.Outcome State Fault Refusal :=
  s.requireConfigured fun r => s.complete (some r) (.word r.state)

/-- SET (R101): all `W` bits written, no masking to WIDTH. -/
def execSet (word : Nat) (s : State) : Host.Outcome State Fault Refusal :=
  s.requireConfigured fun r => s.complete (some { r with state := wordOperand s.params.W word }) .ok

/-- TAPS (R103): the stored list, order and repeats kept. -/
def execTaps (s : State) : Host.Outcome State Fault Refusal :=
  s.requireConfigured fun r => s.complete (some r) (.list r.taps)

/-- WIDTH (R104). -/
def execWidth (s : State) : Host.Outcome State Fault Refusal :=
  s.requireConfigured fun r => s.complete (some r) (.nat r.width)

end Sys2Proof.Machine
end

