-- ==== Sys2Proof/Machine/Dispatch.lean ====
section
/-! DEFINITION. The meaning of each of the twelve commands of R58, one arm each. -/

namespace Sys2Proof.Machine

def exec (i : Instr) (s : State) : Host.Outcome State Fault Refusal :=
  match i with
  | .constructNaive width taps seed => Sys2Proof.Machine.execConstructNaive width taps seed s
  | .constructCountones width taps seed => Sys2Proof.Machine.execConstructCountones width taps seed s
  | .constructPopcnt width taps seed => Sys2Proof.Machine.execConstructPopcnt width taps seed s
  | .constructGalois width taps seed => Sys2Proof.Machine.execConstructGalois width taps seed s
  | .constructGaloisFib width taps seed => Sys2Proof.Machine.execConstructGaloisFib width taps seed s
  | .clock => Sys2Proof.Machine.execClock s
  | .multiclock count => Sys2Proof.Machine.execMulticlock count s
  | .get => Sys2Proof.Machine.execGet s
  | .set word => Sys2Proof.Machine.execSet word s
  | .taps => Sys2Proof.Machine.execTaps s
  | .width => Sys2Proof.Machine.execWidth s
  | .tapmask width taps => Sys2Proof.Machine.execTapmask width taps s

end Sys2Proof.Machine
end

