-- ==== Sys2Proof/Machine/Step.lean ====
section
/-! DEFINITION. One step of one engine: the host's next event (R28, R50, R55, R198, R200). -/

namespace Sys2Proof.Machine

/-- One step. A command is taken off the port, decoded and executed whole (R48, R50); a reserved opcode is refused (R62);
a reset does what R200 says; an engine to which nothing is presented keeps everything as it is (R198). -/
def step (s : State) : Host.Outcome State Fault Refusal :=
  match s.inputs with
  | [] => .next s
  | .reset :: rest => .next (s.withInputs rest).resetEngine
  | .command c :: rest =>
    match decode c with
    | .ok i => exec i (s.withInputs rest)
    | .error (.reservedOpcode op) => .refused (.reservedOpcode op)

/-- `s` with the instruction of a table word presented as the next command (log 4, 12). -/
def State.withFetchWord (s : State) (nbits w : Nat) : State :=
  s.present (Command.ofTableWord s.params.W nbits w)

end Sys2Proof.Machine
end

