-- ==== Sys2Proof/Machine/System.lean ====
section
/-! DEFINITION. Several engines: "The product of `N_INST` independent copies of the single-engine model is the whole system
model" (R193, R11). A list of turns says which engine the host serves next, so that every interleaving of the engines'
command streams (R51) is some list of turns (log 16). -/

namespace Sys2Proof.Machine

/-- `N_INST` engines, each with its own registers, parameters and ports, and the host's order of service. -/
structure System where
  engines : List State
  turns : List Nat
  deriving DecidableEq, Repr

/-- `nInst` engines right after power-on (R200), each with parameters `c`. -/
def System.resetWith (c : Config) (nInst : Nat) : System :=
  { engines := List.replicate nInst (State.resetWith c), turns := [] }

/-- One step of the system: the engine whose turn it is takes one step, and no other engine changes. A turn that names no
engine serves none. -/
def System.step (y : System) : Host.Outcome System Fault Refusal :=
  match y.turns with
  | [] => .next y
  | k :: rest =>
    match y.engines[k]? with
    | none => .next { y with turns := rest }
    | some e =>
      match Machine.step e with
      | .next e' => .next { engines := y.engines.set k e', turns := rest }
      | .fault f => .fault f
      | .refused r => .refused r

/-- `n` steps of the system, stopping at the first refusal. -/
def System.run : Nat → System → Host.Outcome System Fault Refusal
  | 0, y => .next y
  | n + 1, y =>
    match y.step with
    | .next y' => System.run n y'
    | .fault f => .fault f
    | .refused r => .refused r

end Sys2Proof.Machine
end

