-- ==== Sys2Proof/Machine/Analysis.lean ====
section
/-! DEFINITION. The vocabulary of the laws of `46_properties.md`: output sequences, canonical states, tap multiplicity, and
twin machines (R161, R9), and
the seed transform `F2G` (R168), which "the engine does not apply anywhere". No step reads anything of this file. -/

namespace Sys2Proof.Machine

/-- The registers after `n` clocks. -/
def Registers.after {W : Nat} (hasPopcnt : Bool) (n : Nat) (r : Registers W) : Registers W :=
  (Registers.clocked hasPopcnt)^[n] r

/-- Output bit `n` of an instance, element 0 being the first bit produced (R17, R43): `b[n] = s_0(n)`. -/
def Registers.output {W : Nat} (hasPopcnt : Bool) (n : Nat) (r : Registers W) : Bool :=
  (r.after hasPopcnt n).out

/-- The instance that a successful CONSTRUCT.* of variant `v` with these operands leaves (R94). -/
def built (W : Nat) (v : Variant) (width : Nat) (taps : List Nat) (seed : Word W) : Registers W :=
  { variant := v, width := width, taps := taps, tapmask := mask W taps, state := seed }

/-- The instance that a successful CONSTRUCT.GALOIS.FIB leaves (R145). -/
def builtGaloisFib (W width : Nat) (taps : List Nat) (seed : Word W) : Registers W :=
  built W .galois width (mirrorTaps width taps) seed

/-- The operands that pass the checks of R76 to R78. -/
abbrev Accepted (W width : Nat) (taps : List Nat) : Prop :=
  1 ≤ width ∧ width ≤ W ∧ ∀ t ∈ taps, 1 ≤ t ∧ t ≤ width

/-- A canonical word: "below `2^width`, all bits at `width` and above zero" (glossary of `00_scope.md`). -/
abbrev Canonical {W : Nat} (width : Nat) (v : Word W) : Prop := v.toNat < 2 ^ width

/-- `odd(taps)`: "every position that occurs in `taps` occurs an odd number of times" (R162). -/
abbrev OddTaps (taps : List Nat) : Prop := ∀ t ∈ taps, taps.count t % 2 = 1

/-- `P`: the distinct positions of a tap list (R122, R167). -/
def positions (taps : List Nat) : List Nat := taps.dedup

/-- Bit `k` of `F2G(s)`: `s[k] ^ XOR_{p in P, p > w - k} s[k - 1 - w + p]` (R168). -/
def f2gBit {W : Nat} (width : Nat) (taps : List Nat) (s : Word W) (k : Nat) : Bool :=
  s.getLsbD k ^^ xorOver ((positions taps).filter fun p => width - k < p) fun p => s.getLsbD (k + p - 1 - width)

/-- `F2G(s)`, the canonical word with the bits of `f2gBit` (R168). -/
def f2g {W : Nat} (width : Nat) (taps : List Nat) (s : Word W) : Word W :=
  (List.range width).foldl (fun v k => v ||| (zext W (f2gBit width taps s k) <<< k)) 0#W

/-- The five CONSTRUCT.* commands (R58), each awaiting its operands `width, taps, seed`. -/
def constructors : List (Nat → List Nat → Nat → Instr) :=
  [.constructNaive, .constructCountones, .constructPopcnt, .constructGalois, .constructGaloisFib]

/-- `s` and `t` are the same machine, or differ only in that `s` holds a COUNTONES instance where `t` holds a POPCNT one
with the same WIDTH, TAPS, TAPMASK and STATE (R161). -/
def PopcntTwin (s t : State) : Prop :=
  t = s ∨ ∃ r : Registers s.params.W, s.regs = some r ∧ r.variant = .countones ∧
    t = { params := s.params, regs := some { r with variant := .popcnt }, inputs := s.inputs, responses := s.responses }

/-- The same machine with the value `b` of HAS_POPCNT (R9). -/
abbrev State.withPopcnt (s : State) (b : Bool) : State :=
  { params := { topBit := s.params.topBit, hasPopcnt := b }, regs := s.regs, inputs := s.inputs,
    responses := s.responses }

end Sys2Proof.Machine
end

