-- ==== Sys2Proof/Safety.lean ====
section
/-! DEFINITION. What the claims call a good state, the invariant of a configured engine (R27), and what they call a run (R202). -/

namespace Sys2Proof.Machine

/-- R27 (a), (b), (c): the width is legal, every tap is in range, and TAPMASK is `mask(TAPS)`. "There is no invariant on
STATE: any `W`-bit value may stand there." -/
abbrev Registers.Valid {W : Nat} (r : Registers W) : Prop :=
  Accepted W r.width r.taps ∧ r.tapmask = mask W r.taps

/-- R27: whenever CFG = CONFIGURED the registers are valid. -/
abbrev State.Inv (s : State) : Prop := ∀ r ∈ s.regs, r.Valid

/-- `n` steps of one engine, stopping at the first refusal: a run is a finite list of commands chosen by the host, each run
to completion before the next begins (R50, R202). -/
def run : Nat → State → Host.Outcome State Fault Refusal
  | 0, s => .next s
  | n + 1, s =>
    match step s with
    | .next s' => run n s'
    | .fault f => .fault f
    | .refused r => .refused r

end Sys2Proof.Machine
end

