-- ==== Sys2Proof/Certificates/Slice0/Obligations.lean ====
section
/-! DEFINITION. The statements about the model, for the provers. A state's registers are `s.regs`: `none` is CFG =
UNCONFIGURED and `some r` is CFG = CONFIGURED. A next state written `s.complete g resp` is `s` with the registers `g` and
one more response `resp`, and nothing else changed: parameters and pending inputs are as in `s`. -/

open Sys2Proof Sys2Proof.Machine

/-! ## Commands, encodings and the step -/

/-- R58, R59: for each opcode of the map, the command it selects with the operands it uses (a word operand as the natural
it stands for), its format, and the group `op[7:4]` of that format. -/
def Obligations.OpcodeMapDecodes : Prop :=
  (∀ (W : Nat) (c : Command W),
    (c.op = 0b00010000#8 → decode c = .ok (.constructNaive c.aWidth c.aTaps c.aWord.toNat)) ∧
    (c.op = 0b00010001#8 → decode c = .ok (.constructCountones c.aWidth c.aTaps c.aWord.toNat)) ∧
    (c.op = 0b00010010#8 → decode c = .ok (.constructPopcnt c.aWidth c.aTaps c.aWord.toNat)) ∧
    (c.op = 0b00010011#8 → decode c = .ok (.constructGalois c.aWidth c.aTaps c.aWord.toNat)) ∧
    (c.op = 0b00010100#8 → decode c = .ok (.constructGaloisFib c.aWidth c.aTaps c.aWord.toNat)) ∧
    (c.op = 0b00100000#8 → decode c = .ok .clock) ∧
    (c.op = 0b00100001#8 → decode c = .ok (.multiclock c.aCount)) ∧
    (c.op = 0b00100010#8 → decode c = .ok .get) ∧
    (c.op = 0b00100011#8 → decode c = .ok (.set c.aWord.toNat)) ∧
    (c.op = 0b00100100#8 → decode c = .ok .taps) ∧
    (c.op = 0b00100101#8 → decode c = .ok .width) ∧
    (c.op = 0b00110000#8 → decode c = .ok (.tapmask c.aWidth c.aTaps))) ∧
  (∀ (W : Nat) (c : Command W) (i : Instr), decode c = .ok i →
    i.opcode = c.op ∧ c.op.extractLsb' 4 4 = i.format.group)

/-- Tier 3, encoding: decoding the record of a well-formed instruction gives the instruction back, for every instruction,
every word width and every operand. -/
def Obligations.DecodeOfEncodeIsTheInstruction : Prop :=
  ∀ (W : Nat) (i : Instr), i.wellFormed W = true → decode (encode W i) = .ok i

/-- The other direction: a record that decodes is the record of its instruction, up to the fields the command does not
use; and what it decodes to is well formed. -/
def Obligations.EncodeOfDecodeIsTheRecord : Prop :=
  ∀ (W : Nat) (c : Command W) (i : Instr), decode c = .ok i →
    encode W i = c.normalise ∧ i.wellFormed W = true

/-- R63: two records with the same opcode that agree on the fields the command uses make the same step, whatever stands in
the other fields. -/
def Obligations.UnusedOperandFieldsIgnored : Prop :=
  ∀ (s : State) (c d : Command s.params.W) (rest : List (HostEvent s.params.W)),
    c.op = d.op →
    ((operandUse c.op).usesWidth = true → c.aWidth = d.aWidth) →
    ((operandUse c.op).usesTaps = true → c.aTaps = d.aTaps) →
    ((operandUse c.op).usesWord = true → c.aWord = d.aWord) →
    ((operandUse c.op).usesCount = true → c.aCount = d.aCount) →
    step (s.withInputs (.command c :: rest)) = step (s.withInputs (.command d :: rest))

/-- R62: an opcode outside the map is refused, in every state; and the twelve opcodes of the map are not reserved. -/
def Obligations.ReservedOpcodesRefused : Prop :=
  (∀ (s : State) (c : Command s.params.W) (rest : List (HostEvent s.params.W)),
    s.inputs = .command c :: rest →
    (c.op.toNat ≤ 0x0F ∨ (0x15 ≤ c.op.toNat ∧ c.op.toNat ≤ 0x1F) ∨ (0x26 ≤ c.op.toNat ∧ c.op.toNat ≤ 0x2F) ∨
      (0x31 ≤ c.op.toNat ∧ c.op.toNat ≤ 0xFF)) →
    step s = .refused (.reservedOpcode c.op)) ∧
  (∀ (s : State) (op : BitVec 8), step s = .refused (.reservedOpcode op) →
    op.toNat ≤ 0x0F ∨ (0x15 ≤ op.toNat ∧ op.toNat ≤ 0x1F) ∨ (0x26 ≤ op.toNat ∧ op.toNat ≤ 0x2F) ∨
      (0x31 ≤ op.toNat ∧ op.toNat ≤ 0xFF))

/-- A step runs the decoded command: when the next event is a command whose record decodes to `i`, the step is `exec i` at
the state with that event taken off the port. With nothing presented the step changes nothing (log 4, from R198). A reset
takes the registers away, is taken off the port, and gives no response (log 6). -/
def Obligations.StepRunsTheDecodedCommand : Prop :=
  (∀ (s : State) (c : Command s.params.W) (rest : List (HostEvent s.params.W)) (i : Instr),
    s.inputs = .command c :: rest → decode c = .ok i →
    step s = exec i { params := s.params, regs := s.regs, inputs := rest, responses := s.responses }) ∧
  (∀ s : State, s.inputs = [] → step s = .next s) ∧
  (∀ (s : State) (rest : List (HostEvent s.params.W)), s.inputs = .reset :: rest →
    step s = .next { params := s.params, regs := none, inputs := rest, responses := s.responses })

/-- R60: the code of VARIANT is `op[1:0]` of the constructing command for 0x10 to 0x13, and `11` for 0x14; `00` NAIVE, `01`
COUNTONES, `10` POPCNT, `11` GALOIS. -/
def Obligations.VariantCodeIsTheConstructorsOpcodeBits : Prop :=
  (Variant.naive.code = 0b00#2 ∧ Variant.countones.code = 0b01#2 ∧ Variant.popcnt.code = 0b10#2 ∧
    Variant.galois.code = 0b11#2) ∧
  ∀ (s : State) (c : Command s.params.W) (rest : List (HostEvent s.params.W)),
    s.inputs = .command c :: rest → Accepted s.params.W c.aWidth c.aTaps →
    ((0x10 ≤ c.op.toNat ∧ c.op.toNat ≤ 0x13) →
      ∃ r : Registers s.params.W, step s = .next ((s.withInputs rest).complete (some r) .ok) ∧
        r.variant.code = c.op.extractLsb' 0 2) ∧
    (c.op.toNat = 0x14 →
      ∃ r : Registers s.params.W, step s = .next ((s.withInputs rest).complete (some r) .ok) ∧
        r.variant.code = 0b11#2)

/-- R61: the status codes; `11` is never produced; only format C and format B commands answer another status than OK. -/
def Obligations.StatusCodesAndWhoMayFail : Prop :=
  (∀ (W : Nat) (resp : Response W), resp.status.code ≠ 0b11#2) ∧
  (∀ (W : Nat) (resp : Response W), resp.status.code = 0b00#2 ↔ ∀ e, resp ≠ .error e) ∧
  (∀ (W : Nat) (resp : Response W), resp.status.code = 0b01#2 ↔ ∃ w, resp = .error (.unsupportedWidth w)) ∧
  (∀ (W : Nat) (resp : Response W), resp.status.code = 0b10#2 ↔ ∃ t w, resp = .error (.tapOutOfRange t w)) ∧
  (∀ (i : Instr) (s : State) (g : Option (Registers s.params.W)) (resp : Response s.params.W),
    exec i s = .next (s.complete g resp) → resp.status ≠ .ok → i.format = .C ∨ i.format = .B)

/-- R55: every command that makes a step adds exactly one response and takes nothing else from the ports: the next state
is `s.complete g resp`. The frame of every command. -/
def Obligations.OneResponsePerCommand : Prop :=
  ∀ (i : Instr) (s t : State), exec i s = .next t →
    ∃ (g : Option (Registers s.params.W)) (resp : Response s.params.W), t = s.complete g resp

/-! ## Reset and the life of an instance -/

/-- R200: after power-on and after a reset event CFG is UNCONFIGURED, no other register holds a value (R33), and no
format-O command can read one. -/
def Obligations.ResetLeavesNoInstance : Prop :=
  (∀ c : Config, (State.resetWith c).cfg = .unconfigured ∧ (State.resetWith c).regs = none) ∧
  (∀ (s : State) (rest : List (HostEvent s.params.W)), s.inputs = .reset :: rest →
    ∃ t : State, step s = .next t ∧ t.cfg = .unconfigured ∧ t.regs = none ∧ t.params = s.params ∧
      ∀ i : Instr, i.format = .O → exec i t = .refused .unconfigured)

/-- R21: CFG becomes CONFIGURED only at a successful CONSTRUCT.* (answered OK without payload), and nothing but reset
returns it to UNCONFIGURED. -/
def Obligations.OnlyConstructConfiguresOnlyResetUnconfigures : Prop :=
  ∀ s t : State, step s = .next t →
    (s.cfg = .unconfigured → t.cfg = .configured →
      ∃ (c : Command s.params.W) (rest : List (HostEvent s.params.W)) (i : Instr) (r : Registers s.params.W),
        s.inputs = .command c :: rest ∧ decode c = .ok i ∧ i.format = .C ∧
          t = (s.withInputs rest).complete (some r) .ok) ∧
    (s.cfg = .configured → t.cfg = .unconfigured → ∃ rest : List (HostEvent s.params.W), s.inputs = .reset :: rest)

/-- The invariant of a configured engine (R27 a to c) holds right after reset. -/
def Obligations.EngineInvariantAtReset : Prop :=
  State.reset.Inv ∧ ∀ c : Config, (State.resetWith c).Inv

/-- Tier 3: every step keeps the invariant of R27 (a to c), from every state that has it. -/
def Obligations.EngineInvariantKeptByEveryStep : Prop :=
  ∀ s t : State, s.Inv → step s = .next t → t.Inv

/-- R27 (d), R20: only CONSTRUCT.* writes the configuration. A format-O or format-B command leaves VARIANT, WIDTH, TAPS and
TAPMASK (and CFG) as they were; of the registers only STATE can differ. -/
def Obligations.OnlyConstructWritesTheConfiguration : Prop :=
  ∀ (i : Instr) (s t : State), i.format ≠ .C → exec i s = .next t →
    (s.regs = none ∧ ∃ resp : Response s.params.W, t = s.complete none resp) ∨
    (∃ (r : Registers s.params.W) (x : Word s.params.W) (resp : Response s.params.W),
      s.regs = some r ∧ t = s.complete (some { r with state := x }) resp)

/-- R34: `W` and `HAS_POPCNT` are "fixed per engine for all time": no step changes them. -/
def Obligations.ParametersNeverChange : Prop :=
  ∀ s t : State, step s = .next t → t.params = s.params

/-- R108, R173: the response and the next registers are a function of the registers and the operands alone: not of what is
still to be presented, nor of what has been answered before. -/
def Obligations.CommandsReadOnlyRegistersAndOperands : Prop :=
  ∀ (i : Instr) (s : State) (ins : List (HostEvent s.params.W)) (rs : List (Response s.params.W)),
    (∃ (g : Option (Registers s.params.W)) (resp : Response s.params.W),
      exec i s = .next (s.complete g resp) ∧
      exec i { params := s.params, regs := s.regs, inputs := ins, responses := rs } =
        .next { params := s.params, regs := g, inputs := ins, responses := rs ++ [resp] }) ∨
    (∃ e : Refusal, exec i s = .refused e ∧
      exec i { params := s.params, regs := s.regs, inputs := ins, responses := rs } = .refused e)

/-! ## The tapmask builder -/

/-- R80: bit `i` of the mask is set exactly when `i + 1` occurs among the taps; the order does not matter; with every tap
at most `width` the mask is below `2^width`. -/
def Obligations.MaskBitSetIffTapOccurs : Prop :=
  ∀ (W : Nat) (taps : List Nat), (∀ t ∈ taps, 1 ≤ t ∧ t ≤ W) →
    (∀ i : Nat, (mask W taps).getLsbD i = true ↔ i + 1 ∈ taps) ∧
    (∀ taps' : List Nat, taps.Perm taps' → mask W taps' = mask W taps) ∧
    (∀ width : Nat, (∀ t ∈ taps, t ≤ width) → (mask W taps).toNat < 2 ^ width)

/-- R81: the general placement, one word per `W` bits of width, comes to the single word `mask(taps)` for every accepted
`(width, taps)`. -/
def Obligations.MultiWordPlacementIsOneWord : Prop :=
  ∀ (W width : Nat) (taps : List Nat), Accepted W width taps →
    (∀ t ∈ taps, (t - 1) / W = 0 ∧ (t - 1) % W = t - 1) ∧ maskWords W width taps = [mask W taps]

/-- The builder succeeds exactly on the accepted operands, and then returns their mask (R75 to R80, R84: the empty list
included). -/
def Obligations.BuildSucceedsIffAccepted : Prop :=
  ∀ (W width : Nat) (taps : List Nat) (m : Word W),
    build W width taps = .ok m ↔ Accepted W width taps ∧ m = mask W taps

/-- R76: a width beyond the word is refused with UnsupportedWidth whatever the taps are, by the builder, by every
constructor and by TAPMASK, and no register is written; `width = W` passes. -/
def Obligations.WidthBeyondTheWordRefused : Prop :=
  (∀ (W width : Nat) (taps : List Nat), W < width → build W width taps = .error (.unsupportedWidth width)) ∧
  (∀ (W : Nat) (taps : List Nat), 1 ≤ W → (∀ t ∈ taps, 1 ≤ t ∧ t ≤ W) → build W W taps = .ok (mask W taps)) ∧
  (∀ (s : State) (width : Nat) (taps : List Nat), s.params.W < width →
    (∀ mk ∈ constructors,
      ∀ seed : Nat, exec (mk width taps seed) s = .next (s.complete s.regs (.error (.unsupportedWidth width)))) ∧
    exec (.tapmask width taps) s = .next (s.complete s.regs (.error (.unsupportedWidth width))))

/-- R77: width 0 is refused: with taps, TapOutOfRange of the first tap; without, UnsupportedWidth(0); so no engine is ever
configured with WIDTH = 0: a step that writes the registers' width writes another value.
The case with taps is marked in the spec as its own inference ("derived"). -/
def Obligations.WidthZeroRefused : Prop :=
  ∀ W : Nat,
    (∀ (t : Nat) (taps : List Nat), build W 0 (t :: taps) = .error (.tapOutOfRange t 0)) ∧
    build W 0 [] = .error (.unsupportedWidth 0) ∧
    (∀ (s t : State) (i : Instr), s.Inv → exec i s = .next t → ∀ r ∈ t.regs, r.width ≠ 0)

/-- R78: with the width check passed, the first tap in list order that is `< 1` or `> width` is the one reported; a tap
equal to 1 or to `width` succeeds, a tap equal to 0 or to `width + 1` fails. -/
def Obligations.FirstOffendingTapReported : Prop :=
  (∀ (W width t : Nat) (before after : List Nat), width ≤ W →
    (∀ u ∈ before, 1 ≤ u ∧ u ≤ width) → (t < 1 ∨ width < t) →
    build W width (before ++ t :: after) = .error (.tapOutOfRange t width)) ∧
  (∀ W width : Nat, 1 ≤ width → width ≤ W →
    build W width [1] = .ok (mask W [1]) ∧ build W width [width] = .ok (mask W [width]) ∧
    build W width [0] = .error (.tapOutOfRange 0 width) ∧
    build W width [width + 1] = .error (.tapOutOfRange (width + 1) width))

/-- R147: mirroring is its own inverse on `[1, w]` and stays there, and the mask of the mirrored taps is the mask with its
low `w` bits reversed.
The spec marks this as its own inference ("derived"). -/
def Obligations.MirroredMaskIsReversed : Prop :=
  ∀ (W width : Nat) (taps : List Nat), Accepted W width taps →
    (∀ t, 1 ≤ t → t ≤ width → 1 ≤ mirror width t ∧ mirror width t ≤ width ∧ mirror width (mirror width t) = t) ∧
    (∀ i, i < width →
      (mask W (mirrorTaps width taps)).getLsbD i = (mask W taps).getLsbD (width - 1 - i)) ∧
    (∀ i, width ≤ i → (mask W (mirrorTaps width taps)).getLsbD i = false)

/-- R85: TAPMASK, in either value of CFG: its opcode; the mask on accepted operands, the builder's error on the others;
no register is written. -/
def Obligations.TapmaskReturnsTheMask : Prop :=
  (∀ (W : Nat) (c : Command W), c.op = 0x30#8 → decode c = .ok (.tapmask c.aWidth c.aTaps)) ∧
  (∀ (s : State) (width : Nat) (taps : List Nat), Accepted s.params.W width taps →
    exec (.tapmask width taps) s = .next (s.complete s.regs (.word (mask s.params.W taps)))) ∧
  (∀ (s : State) (width : Nat) (taps : List Nat) (e : BuildError), build s.params.W width taps = .error e →
    exec (.tapmask width taps) s = .next (s.complete s.regs (.error e)))

/-! ## Construction -/

/-- R94, R95, R110, R120, R130, R140: the opcodes of the four direct constructors; on accepted operands each writes all six
registers, the seed unchanged and unmasked whatever word it is, and answers OK, in either value of CFG; where the builder
raises, each answers its error and writes nothing. -/
def Obligations.ConstructorsInstallTheInstance : Prop :=
  (∀ (W : Nat) (c : Command W),
    (c.op = 0x10#8 → decode c = .ok (.constructNaive c.aWidth c.aTaps c.aWord.toNat)) ∧
    (c.op = 0x11#8 → decode c = .ok (.constructCountones c.aWidth c.aTaps c.aWord.toNat)) ∧
    (c.op = 0x12#8 → decode c = .ok (.constructPopcnt c.aWidth c.aTaps c.aWord.toNat)) ∧
    (c.op = 0x13#8 → decode c = .ok (.constructGalois c.aWidth c.aTaps c.aWord.toNat))) ∧
  (∀ (s : State) (width : Nat) (taps : List Nat) (seed : Word s.params.W), Accepted s.params.W width taps →
    exec (.constructNaive width taps seed.toNat) s = .next (s.complete (some
      { variant := .naive, width := width, taps := taps, tapmask := mask s.params.W taps, state := seed }) .ok) ∧
    exec (.constructCountones width taps seed.toNat) s = .next (s.complete (some
      { variant := .countones, width := width, taps := taps, tapmask := mask s.params.W taps, state := seed }) .ok) ∧
    exec (.constructPopcnt width taps seed.toNat) s = .next (s.complete (some
      { variant := .popcnt, width := width, taps := taps, tapmask := mask s.params.W taps, state := seed }) .ok) ∧
    exec (.constructGalois width taps seed.toNat) s = .next (s.complete (some
      { variant := .galois, width := width, taps := taps, tapmask := mask s.params.W taps, state := seed }) .ok)) ∧
  (∀ (s : State) (width : Nat) (taps : List Nat) (seed : Nat) (e : BuildError), build s.params.W width taps = .error e →
    exec (.constructNaive width taps seed) s = .next (s.complete s.regs (.error e)) ∧
    exec (.constructCountones width taps seed) s = .next (s.complete s.regs (.error e)) ∧
    exec (.constructPopcnt width taps seed) s = .next (s.complete s.regs (.error e)) ∧
    exec (.constructGalois width taps seed) s = .next (s.complete s.regs (.error e)))

/-- R145: on accepted operands CONSTRUCT.GALOIS.FIB installs a GALOIS instance with the mirrored taps in the same order,
their mask, and the seed not transformed; on others it answers the builder's error for the taps as given and writes
nothing. -/
def Obligations.GaloisFibConstructorMirrorsTheTaps : Prop :=
  (∀ (W : Nat) (c : Command W), c.op = 0x14#8 →
    decode c = .ok (.constructGaloisFib c.aWidth c.aTaps c.aWord.toNat)) ∧
  (∀ (s : State) (width : Nat) (taps : List Nat) (seed : Word s.params.W), Accepted s.params.W width taps →
    exec (.constructGaloisFib width taps seed.toNat) s = .next (s.complete (some
      { variant := .galois, width := width, taps := taps.map (fun t => width - t + 1),
        tapmask := mask s.params.W (taps.map (fun t => width - t + 1)), state := seed }) .ok)) ∧
  (∀ (s : State) (width : Nat) (taps : List Nat) (seed : Nat) (e : BuildError), build s.params.W width taps = .error e →
    exec (.constructGaloisFib width taps seed) s = .next (s.complete s.regs (.error e)))

/-- R146: on accepted operands CONSTRUCT.GALOIS.FIB and CONSTRUCT.GALOIS with the mirrored list make the same step, and TAPS
then returns the mirrored list, in the order of the original. -/
def Obligations.GaloisFibEqualsDirectWithMirroredTaps : Prop :=
  ∀ (s : State) (width : Nat) (taps : List Nat) (seed : Nat), Accepted s.params.W width taps →
    exec (.constructGaloisFib width taps seed) s =
      exec (.constructGalois width (taps.map (fun t => width - t + 1)) seed) s ∧
    ∃ r : Registers s.params.W,
      exec (.constructGaloisFib width taps seed) s = .next (s.complete (some r) .ok) ∧
      exec .taps (s.complete (some r) .ok) =
        .next ((s.complete (some r) .ok).complete (some r) (.list (taps.map (fun t => width - t + 1))))

/-- R148: the taps are validated as given, by the same builder, before mirroring: the tap reported is the caller's own
number, the first offender in list order; and the error is the one CONSTRUCT.GALOIS answers for the same operands. -/
def Obligations.GaloisFibReportsTheCallersTap : Prop :=
  (∀ (s : State) (width t seed : Nat) (before after : List Nat), width ≤ s.params.W →
    (∀ u ∈ before, 1 ≤ u ∧ u ≤ width) → (t < 1 ∨ width < t) →
    exec (.constructGaloisFib width (before ++ t :: after) seed) s =
      .next (s.complete s.regs (.error (.tapOutOfRange t width)))) ∧
  (∀ (s : State) (width seed : Nat) (taps : List Nat), ¬ Accepted s.params.W width taps →
    ∃ e : BuildError, build s.params.W width taps = .error e ∧
      exec (.constructGaloisFib width taps seed) s = .next (s.complete s.regs (.error e)) ∧
      exec (.constructGalois width taps seed) s = .next (s.complete s.regs (.error e)))

/-- R185: where the builder raises an error, each of the five constructors and TAPMASK ends with the error's response and
writes no register; and whatever command answers an error, the error's response is all it leaves: registers, parameters and
pending commands are as before. -/
def Obligations.AnErrorWritesNoRegister : Prop :=
  (∀ (s : State) (width : Nat) (taps : List Nat) (e : BuildError), build s.params.W width taps = .error e →
    (∀ mk ∈ constructors, ∀ seed : Nat, exec (mk width taps seed) s = .next (s.complete s.regs (.error e))) ∧
    exec (.tapmask width taps) s = .next (s.complete s.regs (.error e))) ∧
  (∀ (i : Instr) (s : State) (g : Option (Registers s.params.W)) (e : BuildError),
    exec i s = .next (s.complete g (.error e)) → g = s.regs)

/-- R96: what a CONSTRUCT.* command does is independent of what stood in the registers: it either succeeds whatever they
hold, and writes the same new registers, or fails whatever they hold, and leaves them. -/
def Obligations.ConstructReplacesOrLeavesTheInstance : Prop :=
  ∀ (i : Instr) (s : State), i.format = .C →
    (∃ r : Registers s.params.W, ∀ g : Option (Registers s.params.W),
      exec i { params := s.params, regs := g, inputs := s.inputs, responses := s.responses } =
        .next { params := s.params, regs := some r, inputs := s.inputs, responses := s.responses ++ [.ok] }) ∨
    (∃ e : BuildError, ∀ g : Option (Registers s.params.W),
      exec i { params := s.params, regs := g, inputs := s.inputs, responses := s.responses } =
        .next { params := s.params, regs := g, inputs := s.inputs, responses := s.responses ++ [.error e] })

/-! ## The register contract -/

/-- R91: every format-O command is refused while CFG = UNCONFIGURED. -/
def Obligations.OperateNeedsAnInstance : Prop :=
  ∀ (i : Instr) (s : State), i.format = .O → s.regs = none → exec i s = .refused .unconfigured

/-- R97: "Every format-O command on a configured engine returns status OK." -/
def Obligations.ConfiguredEngineNeverFails : Prop :=
  ∀ (i : Instr) (s : State) (r : Registers s.params.W), i.format = .O → s.regs = some r →
    ∃ (r' : Registers s.params.W) (resp : Response s.params.W),
      exec i s = .next (s.complete (some r') resp) ∧ resp.status = .ok

/-- R92, R93: CLOCK returns the old bit 0 and writes STATE, and STATE only, with the variant's step. -/
def Obligations.ClockReturnsBitZeroAndSteps : Prop :=
  (∀ (W : Nat) (c : Command W), c.op = 0x20#8 → decode c = .ok .clock) ∧
  (∀ (s : State) (r : Registers s.params.W), s.regs = some r →
    exec .clock s = .next (s.complete (some { r with state :=
      match r.variant with
      | .naive => fibStep r.width (fbFold r.taps r.state) r.state
      | .countones => fibStep r.width (fbParity r.tapmask r.state) r.state
      | .popcnt => fibStep r.width (fbPopcnt s.params.hasPopcnt r.tapmask r.state) r.state
      | .galois => galStep r.tapmask r.state }) (.bit (r.state.getLsbD 0)))) ∧
  (∀ s : State, s.regs = none → exec .clock s = .refused .unconfigured)

/-- MULTICLOCK as one command: `r_bits[k]` is the output bit of the `(k + 1)`-th clock, and the registers after are those
after `n` clocks (R98); with `n = 0`, the empty list and no register changed (R99). -/
def Obligations.MulticlockReturnsTheOutputBits : Prop :=
  (∀ (W : Nat) (c : Command W), c.op = 0x21#8 → decode c = .ok (.multiclock c.aCount)) ∧
  (∀ (s : State) (r : Registers s.params.W) (n : Nat), s.regs = some r →
    exec (.multiclock n) s = .next (s.complete (some (r.after s.params.hasPopcnt n))
      (.bits ((List.range n).map fun k => r.output s.params.hasPopcnt k)))) ∧
  (∀ (s : State) (r : Registers s.params.W), s.regs = some r →
    exec (.multiclock 0) s = .next (s.complete (some r) (.bits []))) ∧
  (∀ (s : State) (n : Nat), s.regs = none → exec (.multiclock n) s = .refused .unconfigured)

/-- Tier 3, R98: MULTICLOCK `n` answers, as one record, the bits that a run of `n` CLOCK commands of the machine answers
one by one in call order, and leaves the same registers. -/
def Obligations.MulticlockEqualsTheLoopOfClocks : Prop :=
  ∀ (s : State) (r : Registers s.params.W) (n : Nat) (rest : List (HostEvent s.params.W)), s.regs = some r →
    s.inputs = List.replicate n (.command (encode s.params.W .clock)) ++ rest →
    ∃ (bs : List Bool) (r' : Registers s.params.W), bs.length = n ∧
      exec (.multiclock n) s = .next (s.complete (some r') (.bits bs)) ∧
      run n s = .next
        { params := s.params, regs := some r', inputs := rest,
          responses := s.responses ++ bs.map (fun b => Response.bit b) }

/-- MULTICLOCK `a` then MULTICLOCK `b` answer the two halves of MULTICLOCK `a + b` and leave the same registers. The spec
marks this, in R98, as its own inference ("derived"). -/
def Obligations.MulticlockSplits : Prop :=
  ∀ (s : State) (r : Registers s.params.W) (a b : Nat), s.regs = some r →
    ∃ (xs ys : List Bool) (g h : Option (Registers s.params.W)),
      exec (.multiclock a) s = .next (s.complete g (.bits xs)) ∧
      exec (.multiclock b) (s.complete g (.bits xs)) = .next ((s.complete g (.bits xs)).complete h (.bits ys)) ∧
      exec (.multiclock (a + b)) s = .next (s.complete h (.bits (xs ++ ys)))

/-- R100, R103, R104: GET, TAPS and WIDTH return the raw word, the list and the width, and write no register; the width
returned is between 1 and `W` in every state with the invariant; after CONSTRUCT.GALOIS.FIB the list returned is the
mirrored one. -/
def Obligations.GetTapsWidthReadTheRegisters : Prop :=
  (∀ (W : Nat) (c : Command W),
    (c.op = 0x22#8 → decode c = .ok .get) ∧ (c.op = 0x24#8 → decode c = .ok .taps) ∧
    (c.op = 0x25#8 → decode c = .ok .width)) ∧
  (∀ (s : State) (r : Registers s.params.W), s.regs = some r →
    exec .get s = .next (s.complete s.regs (.word r.state)) ∧
    exec .taps s = .next (s.complete s.regs (.list r.taps)) ∧
    exec .width s = .next (s.complete s.regs (.nat r.width)) ∧
    (s.Inv → 1 ≤ r.width ∧ r.width ≤ s.params.W)) ∧
  (∀ (s : State) (width : Nat) (taps : List Nat) (seed : Nat), Accepted s.params.W width taps →
    ∃ t : State, exec (.constructGaloisFib width taps seed) s = .next t ∧
      exec .taps t = .next (t.complete t.regs (.list (taps.map fun tap => width - tap + 1)))) ∧
  (∀ s : State, s.regs = none → exec .get s = .refused .unconfigured ∧ exec .taps s = .refused .unconfigured ∧
    exec .width s = .refused .unconfigured)

/-- R101: SET writes all `W` bits of STATE, and STATE only; a GET after it returns the same word. -/
def Obligations.SetWritesTheWholeState : Prop :=
  (∀ (W : Nat) (c : Command W), c.op = 0x23#8 → decode c = .ok (.set c.aWord.toNat)) ∧
  (∀ (s : State) (r : Registers s.params.W) (x : Word s.params.W), s.regs = some r →
    exec (.set x.toNat) s = .next (s.complete (some { r with state := x }) .ok) ∧
    exec .get (s.complete (some { r with state := x }) .ok) =
      .next ((s.complete (some { r with state := x }) .ok).complete (some { r with state := x }) (.word x))) ∧
  (∀ (s : State) (x : Nat), s.regs = none → exec (.set x) s = .refused .unconfigured)

/-- R102: SET after a constructor leaves the registers that the same constructor leaves with the new seed.
The spec marks this as its own inference ("derived"). -/
def Obligations.SetEqualsReseeding : Prop :=
  ∀ (s : State) (width : Nat) (taps : List Nat) (seed x : Word s.params.W), Accepted s.params.W width taps →
    ∀ mk ∈ constructors,
      ∃ g h : Option (Registers s.params.W),
        exec (mk width taps seed.toNat) s = .next (s.complete g .ok) ∧
        exec (mk width taps x.toNat) s = .next (s.complete h .ok) ∧
        exec (.set x.toNat) (s.complete g .ok) = .next ((s.complete g .ok).complete h .ok)

/-! ## The step functions -/

/-- R111: the fold is 1 exactly when an odd number of elements of the list, repeated elements each time, name a set bit; it
is 0 for the empty list, the order does not matter, and only bits below `width` are read. -/
def Obligations.FoldFeedbackCountsEveryTap : Prop :=
  ∀ (W : Nat) (taps : List Nat) (s : Word W),
    (fbFold taps s = true ↔ (taps.countP fun t => s.getLsbD (t - 1)) % 2 = 1) ∧
    fbFold ([] : List Nat) s = false ∧
    (∀ taps' : List Nat, taps.Perm taps' → fbFold taps' s = fbFold taps s) ∧
    (∀ (width : Nat) (s' : Word W), (∀ t ∈ taps, 1 ≤ t ∧ t ≤ width) →
      (∀ i, i < width → s'.getLsbD i = s.getLsbD i) → fbFold taps s' = fbFold taps s)

/-- R112: the Fibonacci step bit by bit, on all `W` bits; and CLOCK makes that step, with the output bit `STATE & 1`, on an
instance of each of the three Fibonacci variants. -/
def Obligations.FibonacciStepBitByBit : Prop :=
  (∀ (s : State) (r : Registers s.params.W), s.regs = some r → r.variant ≠ .galois →
    ∃ fb : Bool, exec .clock s =
      .next (s.complete (some { r with state := fibStep r.width fb r.state }) (.bit (r.state.getLsbD 0)))) ∧
  ∀ (W width : Nat) (fb : Bool) (s : Word W), 1 ≤ width → width ≤ W →
    (∀ i, i + 2 ≤ W → i + 1 ≠ width → (fibStep width fb s).getLsbD i = s.getLsbD (i + 1)) ∧
    (width < W → (fibStep width fb s).getLsbD (width - 1) = (fb || s.getLsbD width)) ∧
    (width = W → (fibStep width fb s).getLsbD (W - 1) = fb) ∧
    (width < W → (fibStep width fb s).getLsbD (W - 1) = false)

/-- R121: the parity feedback is the exclusive-or of the state's bits at the mask's positions (population count modulo 2
of the masked state); COUNTONES steps by `fib_step` with it and reads TAPMASK, never TAPS; CLOCK makes that step, with the
output bit `STATE & 1`. -/
def Obligations.ParityFeedbackIsXorOfMaskedBits : Prop :=
  (∀ (s : State) (r : Registers s.params.W), s.regs = some r → r.variant = .countones →
    exec .clock s = .next (s.complete (some { r with state := fibStep r.width (fbParity r.tapmask r.state) r.state })
      (.bit (r.state.getLsbD 0)))) ∧
  ∀ (W : Nat) (tapmask s : Word W),
    fbParity tapmask s = xorOver (List.range W) (fun i => s.getLsbD i && tapmask.getLsbD i) ∧
    (fbParity tapmask s = true ↔ (List.range W).countP (fun i => s.getLsbD i && tapmask.getLsbD i) % 2 = 1) ∧
    (∀ (hw : Bool) (width : Nat) (taps : List Nat),
      nextWord hw .countones width taps tapmask s = fibStep width (fbParity tapmask s) s)

/-- R122: the parity over the mask is the exclusive-or over the distinct positions, and equals the fold for every word
exactly when every position occurs an odd number of times.
The spec marks this as its own inference ("derived"). -/
def Obligations.ParityEqualsFoldIffOddMultiplicity : Prop :=
  ∀ (W width : Nat) (taps : List Nat), Accepted W width taps →
    (∀ s : Word W, fbParity (mask W taps) s = xorOver (positions taps) fun p => s.getLsbD (p - 1)) ∧
    ((∀ s : Word W, fbParity (mask W taps) s = fbFold taps s) ↔ OddTaps taps)

/-- Tier 3, R162: NAIVE and COUNTONES built from the same operands hold the same STATE and return the same bits for ever,
from every seed, exactly when every position occurs an odd number of times.
The spec marks this as its own inference ("derived"). -/
def Obligations.NaiveMatchesCountonesIffOddMultiplicity : Prop :=
  ∀ (W width : Nat) (taps : List Nat) (hw : Bool), Accepted W width taps →
    ((∀ (seed : Word W) (n : Nat),
      ((built W .naive width taps seed).after hw n).state = ((built W .countones width taps seed).after hw n).state ∧
      (built W .naive width taps seed).output hw n = (built W .countones width taps seed).output hw n) ↔
      OddTaps taps)

/-- Tier 3, R161: COUNTONES and POPCNT are the same machine: through any number of steps of any events, twins answer alike
and stay twins, and one is refused when the other is.
The spec marks this as its own inference ("derived"). -/
def Obligations.CountonesAndPopcntAreTheSameMachine : Prop :=
  ∀ (n : Nat) (s t : State), PopcntTwin s t →
    (∀ s', run n s = .next s' →
      ∃ t', run n t = .next t' ∧ PopcntTwin s' t') ∧
    (∀ e, run n s = .refused e → run n t = .refused e)

/-- R9: HAS_POPCNT selects how the POPCNT variant computes the population count, with the same feedback bit either way, and
is no operand of the other variants' steps; no command behaves differently under either value: every step is the same but
for the parameter. -/
def Obligations.HasPopcntIsUnobservable : Prop :=
  (∀ (W : Nat) (tapmask x : Word W),
    fbPopcnt true tapmask x = (hardwarePopcount (x &&& tapmask) % 2 == 1) ∧
    fbPopcnt false tapmask x = fbParity tapmask x ∧ fbPopcnt true tapmask x = fbPopcnt false tapmask x) ∧
  ∀ (s : State) (b : Bool),
    (∀ t, step s = .next t → step (s.withPopcnt b) = .next (t.withPopcnt b)) ∧
    (∀ e, step s = .refused e → step (s.withPopcnt b) = .refused e)

/-- R141: the Galois step bit by bit, on all `W` bits; it reads TAPMASK and STATE only; CLOCK makes that step, with the
output bit `STATE & 1`, on a GALOIS instance. -/
def Obligations.GaloisStepBitByBit : Prop :=
  (∀ (s : State) (r : Registers s.params.W), s.regs = some r → r.variant = .galois →
    exec .clock s =
      .next (s.complete (some { r with state := galStep r.tapmask r.state }) (.bit (r.state.getLsbD 0)))) ∧
  ∀ (W : Nat) (tapmask s : Word W), 1 ≤ W →
    (∀ i, i + 2 ≤ W →
      (galStep tapmask s).getLsbD i = (s.getLsbD (i + 1) ^^ (s.getLsbD 0 && tapmask.getLsbD i))) ∧
    (galStep tapmask s).getLsbD (W - 1) = (s.getLsbD 0 && tapmask.getLsbD (W - 1)) ∧
    (∀ (hw : Bool) (width : Nat) (taps : List Nat),
      nextWord hw .galois width taps tapmask s = galStep tapmask s)

/-- R142: the branchless form computes the Galois step. -/
def Obligations.BranchlessGaloisStep : Prop :=
  ∀ (W : Nat) (tapmask s : Word W),
    galStep tapmask s = (s >>> 1) ^^^ ((0#W - zext W (s.getLsbD 0)) &&& tapmask)

/-- R113, R143: canonical states are closed under the step of every variant.
The spec marks this as its own inference ("derived"). -/
def Obligations.CanonicalStatesAreClosed : Prop :=
  ∀ (W : Nat) (r : Registers W) (hw : Bool), r.Valid → Canonical r.width r.state →
    Canonical r.width (r.clocked hw).state

/-- R114, R149: dead bits move down one place a clock (every bit above the register is the bit above it before), and after
`W - WIDTH` clocks, and from then on, the state is canonical, in every variant.
The spec marks this as its own inference ("derived"). -/
def Obligations.DeadStateDrains : Prop :=
  ∀ (W : Nat) (r : Registers W) (hw : Bool), r.Valid →
    (∀ i, r.width ≤ i → (r.clocked hw).state.getLsbD i = r.state.getLsbD (i + 1)) ∧
    (∀ n, W - r.width ≤ n → Canonical r.width (r.after hw n).state)

/-- R116, R150: with no taps every variant only shifts; a canonical state is 0 after `width` clocks and stays 0.
The spec marks this as its own inference ("derived"). -/
def Obligations.EmptyTapListOnlyShifts : Prop :=
  ∀ (W : Nat) (r : Registers W) (hw : Bool), r.Valid → r.taps = [] →
    (r.clocked hw).state = r.state >>> 1 ∧
    (Canonical r.width r.state → ∀ n, r.width ≤ n → (r.after hw n).state = 0#W)

/-- R171: zero is a fixed point of every variant: output 0 and STATE 0 for ever.
The spec marks this as its own inference ("derived"). -/
def Obligations.ZeroStateIsAbsorbing : Prop :=
  ∀ (W : Nat) (r : Registers W) (hw : Bool), r.state = 0#W →
    ∀ n, (r.after hw n).state = 0#W ∧ r.output hw n = false

/-- R163: on canonical states each Fibonacci step is linear over exclusive-or; the Galois step is linear on all words.
The spec marks this as its own inference ("derived"). -/
def Obligations.StepsAreLinear : Prop :=
  (∀ (W width : Nat) (taps : List Nat) (hw : Bool) (v : Variant) (a b : Word W), Accepted W width taps →
    Canonical width a → Canonical width b →
    nextWord hw v width taps (mask W taps) (a ^^^ b) =
      nextWord hw v width taps (mask W taps) a ^^^ nextWord hw v width taps (mask W taps) b) ∧
  (∀ (W : Nat) (tapmask a b : Word W), galStep tapmask (a ^^^ b) = galStep tapmask a ^^^ galStep tapmask b)

/-- Tier 3, R113, R43: from a canonical seed a Fibonacci register returns its seed's bits first, low bit first, and then
obeys the recurrence of its taps: every element of the list for NAIVE, the distinct positions for COUNTONES and POPCNT.
The spec marks this as its own inference ("derived"). -/
def Obligations.FibonacciOutputRecurrence : Prop :=
  ∀ (W width : Nat) (taps : List Nat) (seed : Word W) (hw : Bool), Accepted W width taps → Canonical width seed →
    (∀ v ∈ [Variant.naive, Variant.countones, Variant.popcnt],
      ∀ k, k < width → (built W v width taps seed).output hw k = seed.getLsbD k) ∧
    (∀ n, (built W .naive width taps seed).output hw (n + width) =
      xorOver taps fun t => (built W .naive width taps seed).output hw (n + t - 1)) ∧
    (∀ v ∈ [Variant.countones, Variant.popcnt], ∀ n,
      (built W v width taps seed).output hw (n + width) =
        xorOver (positions taps) fun p => (built W v width taps seed).output hw (n + p - 1))

/-- Tier 3, R167: the instance of CONSTRUCT.GALOIS.FIB obeys, from a canonical seed, the recurrence of the Fibonacci mask
variants with the same width and taps.
The spec marks this as its own inference ("derived"). -/
def Obligations.GaloisOutputRecurrence : Prop :=
  ∀ (W width : Nat) (taps : List Nat) (seed : Word W) (hw : Bool), Accepted W width taps → Canonical width seed →
    ∀ n, (builtGaloisFib W width taps seed).output hw (n + width) =
      xorOver (positions taps) fun p => (builtGaloisFib W width taps seed).output hw (n + p - 1)

/-- Tier 3, R168: with the seed transformed by `F2G` the Galois instance returns the bits of the COUNTONES instance for
ever (and of NAIVE under odd multiplicity); `F2G` maps the canonical words one to one onto the canonical words.
The spec marks this as its own inference ("derived"). -/
def Obligations.SeedTransformMakesGaloisMatchFibonacci : Prop :=
  ∀ (W width : Nat) (taps : List Nat), Accepted W width taps →
    (∀ (s : Word W) (hw : Bool), Canonical width s → ∀ n,
      (builtGaloisFib W width taps (f2g width taps s)).output hw n = (built W .countones width taps s).output hw n ∧
      (OddTaps taps →
        (builtGaloisFib W width taps (f2g width taps s)).output hw n = (built W .naive width taps s).output hw n)) ∧
    (∀ s : Word W, Canonical width s → Canonical width (f2g width taps s)) ∧
    (∀ s s' : Word W, Canonical width s → Canonical width s' → f2g width taps s = f2g width taps s' → s = s') ∧
    (∀ g : Word W, Canonical width g → ∃ s : Word W, Canonical width s ∧ f2g width taps s = g)

/-- Tier 3, R169: from the same canonical seed the two return the same output for ever exactly when `F2G(s) = s`, that is,
when `XOR_{p in P, p > w - k} s[k - 1 - w + p] = 0` for every `k` in `[0, w - 1]`.
The spec marks this as its own inference ("derived"). -/
def Obligations.SameSeedSameOutputIffFixedByTransform : Prop :=
  ∀ (W width : Nat) (taps : List Nat) (s : Word W) (hw : Bool), Accepted W width taps → Canonical width s →
    ((∀ n, (builtGaloisFib W width taps s).output hw n = (built W .countones width taps s).output hw n) ↔
      f2g width taps s = s) ∧
    (f2g width taps s = s ↔ ∀ k, k < width →
      xorOver ((positions taps).filter fun p => width - k < p) (fun p => s.getLsbD (k + p - 1 - width)) = false)

/-! ## Several engines -/

/-- Tier 3, R51, R193: in any interleaving of the engines' command streams each engine ends as if it had run its own stream
alone; and the system runs to the end whenever each engine alone does. -/
def Obligations.EnginesRunAsIfAlone : Prop :=
  ∀ y : System,
    (∀ z : System, System.run y.turns.length y = .next z →
      z.engines.length = y.engines.length ∧
      ∀ (k : Nat) (e : State), y.engines[k]? = some e →
        ∃ e' : State, run (y.turns.count k) e = .next e' ∧ z.engines[k]? = some e') ∧
    ((∀ (k : Nat) (e : State), y.engines[k]? = some e →
        ∃ e' : State, run (y.turns.count k) e = .next e') →
      ∃ z : System, System.run y.turns.length y = .next z)
end

