-- ==== Sys2Proof/Laws/State.lean ====
section
/-! SUPPORT. One lemma per field per update of State and Registers, so that no later proof unfolds a record update. -/

namespace Sys2Proof.Machine

section Complete
variable (s : State) (g : Option (Registers s.params.W)) (resp : Response s.params.W)

@[simp] theorem State.complete_params : (s.complete g resp).params = s.params := rfl
@[simp] theorem State.complete_regs : (s.complete g resp).regs = g := rfl
@[simp] theorem State.complete_inputs : (s.complete g resp).inputs = s.inputs := rfl
@[simp] theorem State.complete_responses : (s.complete g resp).responses = s.responses ++ [resp] := rfl

end Complete

section Raise
variable (s : State) (e : BuildError)

@[simp] theorem State.raise_params : (s.raise e).params = s.params := rfl
@[simp] theorem State.raise_regs : (s.raise e).regs = s.regs := rfl
@[simp] theorem State.raise_inputs : (s.raise e).inputs = s.inputs := rfl
@[simp] theorem State.raise_responses : (s.raise e).responses = s.responses ++ [.error e] := rfl

end Raise

section Ports
variable (s : State)

@[simp] theorem State.resetEngine_params : s.resetEngine.params = s.params := rfl
@[simp] theorem State.resetEngine_regs : s.resetEngine.regs = none := rfl
@[simp] theorem State.resetEngine_inputs : s.resetEngine.inputs = s.inputs := rfl
@[simp] theorem State.resetEngine_responses : s.resetEngine.responses = s.responses := rfl

variable (rest : List (HostEvent s.params.W))

@[simp] theorem State.withInputs_params : (s.withInputs rest).params = s.params := rfl
@[simp] theorem State.withInputs_regs : (s.withInputs rest).regs = s.regs := rfl
@[simp] theorem State.withInputs_inputs : (s.withInputs rest).inputs = rest := rfl
@[simp] theorem State.withInputs_responses : (s.withInputs rest).responses = s.responses := rfl

variable (c : Command s.params.W)

@[simp] theorem State.present_params : (s.present c).params = s.params := rfl
@[simp] theorem State.present_regs : (s.present c).regs = s.regs := rfl
@[simp] theorem State.present_inputs : (s.present c).inputs = .command c :: s.inputs := rfl
@[simp] theorem State.present_responses : (s.present c).responses = s.responses := rfl

end Ports

section Clocked
variable {W : Nat} (hw : Bool) (r : Registers W)

@[simp] theorem Registers.clocked_variant : (r.clocked hw).variant = r.variant := rfl
@[simp] theorem Registers.clocked_width : (r.clocked hw).width = r.width := rfl
@[simp] theorem Registers.clocked_taps : (r.clocked hw).taps = r.taps := rfl
@[simp] theorem Registers.clocked_tapmask : (r.clocked hw).tapmask = r.tapmask := rfl
@[simp] theorem Registers.clocked_state :
    (r.clocked hw).state = nextWord hw r.variant r.width r.taps r.tapmask r.state := rfl

end Clocked

@[simp] theorem State.resetWith_params (c : Config) : (State.resetWith c).params = c := rfl
@[simp] theorem State.resetWith_regs (c : Config) : (State.resetWith c).regs = none := rfl
@[simp] theorem State.resetWith_inputs (c : Config) : (State.resetWith c).inputs = [] := rfl
@[simp] theorem State.resetWith_responses (c : Config) : (State.resetWith c).responses = [] := rfl

theorem State.cfg_unconfigured_iff (s : State) : s.cfg = .unconfigured ↔ s.regs = none := by
  unfold State.cfg; cases s.regs <;> simp

theorem State.cfg_configured_iff (s : State) : s.cfg = .configured ↔ ∃ r, s.regs = some r := by
  unfold State.cfg; cases s.regs <;> simp

end Sys2Proof.Machine
end

