-- ==== Sys2Proof/Laws/Ops.lean ====
section
/-! SUPPORT. One lemma for each shared operation that says what it does, which later proofs cite instead of unfolding it. -/

namespace Sys2Proof.Machine

/-! ## Exclusive-or over a list (R17) -/

theorem foldl_xor_start (xs : List Nat) (f : Nat → Bool) (b : Bool) :
    xs.foldl (fun b t => b ^^ f t) b = (b ^^ xorOver xs f) := by
  induction xs generalizing b with
  | nil => simp [xorOver]
  | cons x xs ih => simp only [List.foldl_cons, xorOver]; rw [ih, ih (false ^^ f x)]; simp

@[simp] theorem xorOver_nil (f : Nat → Bool) : xorOver [] f = false := rfl

@[simp] theorem xorOver_cons (x : Nat) (xs : List Nat) (f : Nat → Bool) :
    xorOver (x :: xs) f = (f x ^^ xorOver xs f) := by
  simpa [xorOver] using foldl_xor_start xs f (f x)

@[simp] theorem xorOver_append (xs ys : List Nat) (f : Nat → Bool) :
    xorOver (xs ++ ys) f = (xorOver xs f ^^ xorOver ys f) := by
  induction xs with
  | nil => simp
  | cons x xs ih => simp [ih]

theorem xorOver_congr {xs : List Nat} {f g : Nat → Bool} (h : ∀ x ∈ xs, f x = g x) : xorOver xs f = xorOver xs g := by
  induction xs with
  | nil => rfl
  | cons x xs ih => simp_all

theorem xorOver_perm {xs ys : List Nat} (h : xs.Perm ys) (f : Nat → Bool) : xorOver xs f = xorOver ys f := by
  induction h with
  | nil => rfl
  | cons x _ ih => simp [ih]
  | swap x y l => simp [Bool.xor_left_comm]
  | trans _ _ ih1 ih2 => rw [ih1, ih2]

theorem xorOver_xor (xs : List Nat) (f g : Nat → Bool) :
    xorOver xs (fun x => f x ^^ g x) = (xorOver xs f ^^ xorOver xs g) := by
  induction xs with
  | nil => rfl
  | cons x xs ih => simp only [xorOver_cons, ih]; cases f x <;> cases g x <;> simp

theorem xorOver_map (xs : List Nat) (h : Nat → Nat) (f : Nat → Bool) :
    xorOver (xs.map h) f = xorOver xs fun x => f (h x) := by
  induction xs with
  | nil => rfl
  | cons x xs ih => simp [ih]

/-- The exclusive-or counts modulo 2. -/
theorem xorOver_eq_countP (xs : List Nat) (f : Nat → Bool) : xorOver xs f = (xs.countP f % 2 == 1) := by
  induction xs with
  | nil => rfl
  | cons x xs ih =>
    rw [xorOver_cons, ih, List.countP_cons]
    rcases Nat.mod_two_eq_zero_or_one (xs.countP f) with h | h <;> cases hx : f x <;> simp [h, Nat.add_mod]

/-! ## Words -/

theorem zext_getLsbD (W : Nat) (b : Bool) (i : Nat) :
    (zext W b).getLsbD i = (decide (i < W) && decide (i = 0) && b) := by
  cases b
  · simp [zext]
  · cases i <;> cases W <;> simp [zext]

theorem zext_shift_getLsbD (W : Nat) (b : Bool) (k i : Nat) :
    (zext W b <<< k).getLsbD i = (decide (i < W) && decide (i = k) && b) := by
  rw [BitVec.getLsbD_shiftLeft, zext_getLsbD]
  by_cases h : i < k
  · have : i ≠ k := by omega
    simp [h, this]
  · by_cases h' : i = k
    · subst h'; by_cases hW : i < W <;> simp [hW]; omega
    · have : i - k ≠ 0 := by omega
      simp [h', this]

theorem parity_eq_xorOver {W : Nat} (v : Word W) : parity v = xorOver (List.range W) fun i => v.getLsbD i := by
  rw [xorOver_eq_countP]; rfl

theorem fbParity_eq_xorOver {W : Nat} (m s : Word W) :
    fbParity m s = xorOver (List.range W) fun i => s.getLsbD i && m.getLsbD i := by
  simp [fbParity, parity_eq_xorOver]

/-- With or without the hardware instruction the POPCNT feedback is the parity feedback (R131). -/
@[simp] theorem fbPopcnt_eq_fbParity {W : Nat} (hw : Bool) (m s : Word W) : fbPopcnt hw m s = fbParity m s := by
  cases hw <;> rfl

/-! ## The builder -/

theorem foldl_mask_getLsbD (W : Nat) (taps : List Nat) (m : Word W) (i : Nat) :
    (taps.foldl (fun m t => m ||| (1#W <<< (t - 1))) m).getLsbD i =
      (m.getLsbD i || decide (i < W ∧ ∃ t ∈ taps, t - 1 = i)) := by
  induction taps generalizing m with
  | nil => simp
  | cons t ts ih =>
    have h1 : (1#W <<< (t - 1)).getLsbD i = (decide (i < W) && decide (i = t - 1) && true) := by
      simpa [zext] using zext_shift_getLsbD W true (t - 1) i
    rw [List.foldl_cons, ih, BitVec.getLsbD_or, h1, Bool.and_true, Bool.or_assoc]
    congr 1
    by_cases hW : i < W <;> by_cases ht : t - 1 = i <;> simp only [hW, ht, eq_comm (a := i)] <;> simp [ht]

/-- Each bit of a mask, whatever the taps (R80). -/
theorem mask_getLsbD (W : Nat) (taps : List Nat) (i : Nat) :
    (mask W taps).getLsbD i = decide (i < W ∧ ∃ t ∈ taps, t - 1 = i) := by
  simpa [mask] using foldl_mask_getLsbD W taps 0#W i

theorem tapBad_eq_false_iff (width t : Nat) : tapBad width t = false ↔ 1 ≤ t ∧ t ≤ width := by
  simp [tapBad]; omega

/-- What a successful build says of its operands. -/
theorem accepted_of_build_ok {W width : Nat} {taps : List Nat} {m : Word W} (h : build W width taps = .ok m) :
    Accepted W width taps ∧ m = mask W taps := by
  unfold build at h
  split at h
  · cases h
  · split at h
    · cases h
    · rename_i h1 h2
      split at h
      · cases h
      · rename_i hf
        have ht : ∀ t ∈ taps, 1 ≤ t ∧ t ≤ width := fun t hm =>
          (tapBad_eq_false_iff width t).1 (by simpa using List.find?_eq_none.1 hf t hm)
        refine ⟨⟨?_, by omega, ht⟩, by cases h; rfl⟩
        rcases Nat.eq_zero_or_pos width with h0 | h0
        · cases taps with
          | nil => exact absurd ⟨h0, rfl⟩ h2
          | cons t ts => have := ht t (by simp); omega
        · exact h0

/-- What a failed build says of its operands. -/
theorem not_accepted_of_build_error {W width : Nat} {taps : List Nat} {e : BuildError}
    (h : build W width taps = .error e) : ¬ Accepted W width taps := by
  rintro ⟨h1, h2, h3⟩
  have hf : taps.find? (tapBad width) = none :=
    List.find?_eq_none.2 fun t ht => by simpa using (tapBad_eq_false_iff width t).2 (h3 t ht)
  have h4 : ¬ W < width := by omega
  have h5 : ¬ (width = 0 ∧ taps = []) := by omega
  simp [build, h4, h5, hf] at h

/-! ## The step functions -/

/-- Each bit of the Fibonacci step, whatever the width (R112). -/
theorem fibStep_getLsbD {W : Nat} (width : Nat) (fb : Bool) (s : Word W) (i : Nat) :
    (fibStep width fb s).getLsbD i = (s.getLsbD (i + 1) || (decide (i < W) && decide (i = width - 1) && fb)) := by
  rw [fibStep, BitVec.getLsbD_or, zext_shift_getLsbD, BitVec.getLsbD_ushiftRight, Nat.add_comm 1 i]

/-- Each bit of the Galois step (R141). -/
theorem galStep_getLsbD {W : Nat} (m s : Word W) (i : Nat) :
    (galStep m s).getLsbD i = (s.getLsbD (i + 1) ^^ (s.getLsbD 0 && m.getLsbD i)) := by
  rw [galStep, BitVec.getLsbD_xor, BitVec.getLsbD_ushiftRight, Nat.add_comm 1 i]
  cases s.getLsbD 0 <;> simp

/-! ## Repeated clocking -/

@[simp] theorem Registers.after_zero {W : Nat} (hw : Bool) (r : Registers W) : r.after hw 0 = r := rfl

theorem Registers.after_succ {W : Nat} (hw : Bool) (n : Nat) (r : Registers W) :
    r.after hw (n + 1) = (r.clocked hw).after hw n := rfl

theorem Registers.after_succ' {W : Nat} (hw : Bool) (n : Nat) (r : Registers W) :
    r.after hw (n + 1) = (r.after hw n).clocked hw := Function.iterate_succ_apply' _ _ _

theorem Registers.after_add {W : Nat} (hw : Bool) (a b : Nat) (r : Registers W) :
    r.after hw (a + b) = (r.after hw a).after hw b := by
  rw [Nat.add_comm]; exact Function.iterate_add_apply _ _ _ _

theorem Registers.output_succ {W : Nat} (hw : Bool) (n : Nat) (r : Registers W) :
    r.output hw (n + 1) = (r.clocked hw).output hw n := rfl

theorem Registers.output_add {W : Nat} (hw : Bool) (a b : Nat) (r : Registers W) :
    r.output hw (a + b) = (r.after hw a).output hw b := by
  unfold Registers.output; rw [Registers.after_add]

/-- Clocking writes STATE only. -/
theorem Registers.after_configuration {W : Nat} (hw : Bool) (n : Nat) (r : Registers W) :
    (r.after hw n).variant = r.variant ∧ (r.after hw n).width = r.width ∧ (r.after hw n).taps = r.taps ∧
      (r.after hw n).tapmask = r.tapmask := by
  induction n with
  | zero => exact ⟨rfl, rfl, rfl, rfl⟩
  | succ n ih => simpa [Registers.after_succ'] using ih

/-! ## How a command ends -/

theorem State.requireConfigured_none {s : State} (h : s.regs = none) (run : Registers s.params.W → State) :
    s.requireConfigured run = .refused .unconfigured := by
  unfold State.requireConfigured; rw [h]

theorem State.requireConfigured_some {s : State} {r : Registers s.params.W} (h : s.regs = some r)
    (run : Registers s.params.W → State) : s.requireConfigured run = .next (run r) := by
  unfold State.requireConfigured; rw [h]

/-- Everything a format-O command can do before its own body runs (R91). -/
theorem State.requireConfigured_cases (s : State) (run : Registers s.params.W → State) :
    (s.regs = none ∧ s.requireConfigured run = .refused .unconfigured) ∨
      ∃ r, s.regs = some r ∧ s.requireConfigured run = .next (run r) := by
  cases h : s.regs with
  | none => exact .inl ⟨rfl, State.requireConfigured_none h run⟩
  | some r => exact .inr ⟨r, rfl, State.requireConfigured_some h run⟩

/-- Everything the common body of construction can do (R94, R96). -/
theorem State.construct_cases (s : State) (v : Variant) (width : Nat) (taps : List Nat) (seed : Word s.params.W) :
    (∃ e, build s.params.W width taps = .error e ∧ s.construct v width taps seed = s.complete s.regs (.error e)) ∨
      ∃ m, build s.params.W width taps = .ok m ∧
        s.construct v width taps seed = s.complete (some
          { variant := v, width := width, taps := taps, tapmask := m, state := seed }) .ok := by
  unfold State.construct
  cases h : build s.params.W width taps with
  | error e => exact .inl ⟨e, rfl, rfl⟩
  | ok m => exact .inr ⟨m, rfl, rfl⟩

/-- A word presented as an operand is the word itself (R64). -/
@[simp] theorem wordOperand_toNat {W : Nat} (x : Word W) : wordOperand W x.toNat = x := by simp [wordOperand]

end Sys2Proof.Machine
end

