-- ==== Sys2Proof/Laws/PerInstr.lean ====
section
/-! SUPPORT. The per-instruction family OpcodeGroup: `op[7:4]` of an instruction's opcode is the group of its format (R59). -/

namespace Sys2Proof.Laws.OpcodeGroup

/-- The group field of the opcode is the format's (R58, R59). -/
def Statement (i : Instr) : Prop := i.opcode.extractLsb' 4 4 = i.format.group

theorem ofInstr (i : Instr) : Statement i := by
  cases i <;> simp [Statement, Instr.opcode, Instr.format, Format.group]

theorem constructNaive (w : Nat) (ts : List Nat) (x : Nat) : Statement (.constructNaive w ts x) := ofInstr _
theorem constructCountones (w : Nat) (ts : List Nat) (x : Nat) : Statement (.constructCountones w ts x) := ofInstr _
theorem constructPopcnt (w : Nat) (ts : List Nat) (x : Nat) : Statement (.constructPopcnt w ts x) := ofInstr _
theorem constructGalois (w : Nat) (ts : List Nat) (x : Nat) : Statement (.constructGalois w ts x) := ofInstr _
theorem constructGaloisFib (w : Nat) (ts : List Nat) (x : Nat) : Statement (.constructGaloisFib w ts x) := ofInstr _
theorem clock : Statement .clock := ofInstr _
theorem multiclock (n : Nat) : Statement (.multiclock n) := ofInstr _
theorem get : Statement .get := ofInstr _
theorem set (x : Nat) : Statement (.set x) := ofInstr _
theorem taps : Statement .taps := ofInstr _
theorem width : Statement .width := ofInstr _
theorem tapmask (w : Nat) (ts : List Nat) : Statement (.tapmask w ts) := ofInstr _

end Sys2Proof.Laws.OpcodeGroup
end

