-- ==== Sys2Proof/Laws/Step.lean ====
section
/-! SUPPORT. What a step and a run can do, said once (R50, R62, R198, R200). -/

namespace Sys2Proof.Machine

/-- Everything a step that answers a next state can have done. -/
theorem step_cases {s t : State} (h : step s = .next t) :
    (s.inputs = [] ∧ t = s) ∨
      (∃ rest, s.inputs = .reset :: rest ∧ t = (s.withInputs rest).resetEngine) ∨
      ∃ c rest i, s.inputs = .command c :: rest ∧ decode c = .ok i ∧ exec i (s.withInputs rest) = .next t := by
  unfold step at h
  split at h
  · exact .inl ⟨‹_›, by cases h; rfl⟩
  · exact .inr (.inl ⟨_, ‹_›, by cases h; rfl⟩)
  · split at h
    · exact .inr (.inr ⟨_, _, _, ‹_›, ‹_›, h⟩)
    · cases h

/-! ## Runs -/

@[simp] theorem run_zero (s : State) : run 0 s = .next s := rfl

theorem run_succ_next {s s' : State} (h : step s = .next s') (n : Nat) : run (n + 1) s = run n s' := by
  rw [run, h]

theorem run_succ_refused {s : State} {e : Refusal} (h : step s = .refused e) (n : Nat) :
    run (n + 1) s = .refused e := by
  rw [run, h]

/-- A run of `run` is a run of the host's interface. -/
theorem core_run_eq_run (n : Nat) (s : State) : Host.Core.run Sys2Proof.core n s = run n s := by
  induction n generalizing s with
  | zero => rfl
  | succ n ih =>
    refine (Host.Core.run.eq_2 Sys2Proof.core s n).trans ?_
    have hstep : Sys2Proof.core.step s = step s := rfl
    rw [hstep, run]
    cases step s with
    | next s' => exact ih s'
    | fault f => rfl
    | refused r => rfl

@[simp] theorem System.run_zero (y : System) : System.run 0 y = .next y := rfl

theorem System.run_succ_next {y z : System} (h : y.step = .next z) (n : Nat) :
    System.run (n + 1) y = System.run n z := by
  rw [System.run, h]

/-- Everything a step of the system that answers a next state can have done. -/
theorem System.step_cases {y z : System} (h : y.step = .next z) :
    (y.turns = [] ∧ z = y) ∨
      (∃ k rest, y.turns = k :: rest ∧ y.engines[k]? = none ∧ z = { engines := y.engines, turns := rest }) ∨
      ∃ k rest e e', y.turns = k :: rest ∧ y.engines[k]? = some e ∧ Machine.step e = .next e' ∧
        z = { engines := y.engines.set k e', turns := rest } := by
  unfold System.step at h
  split at h
  · exact .inl ⟨‹_›, by cases h; rfl⟩
  · split at h
    · exact .inr (.inl ⟨_, _, ‹_›, ‹_›, by cases h; rfl⟩)
    · split at h
      · exact .inr (.inr ⟨_, _, _, _, ‹_›, ‹_›, ‹_›, by cases h; rfl⟩)
      · cases h
      · cases h

end Sys2Proof.Machine
end

