-- ==== Sys2Proof/Tests/Slice0.lean ====
section
/-! SUPPORT. Tests. Every expected value is from `95_test_vectors.md`, or from a worked value of the rule named, or worked out
by hand from the rule. Then one witness for each statement of Obligations.lean that has hypotheses. -/

namespace Sys2Proof.Tests

open Sys2Proof.Machine

/-! ## Helpers -/

/-- A 64-bit engine holding an instance, as after a successful construction. -/
def engine (v : Variant) (width : Nat) (taps : List Nat) (seed : Word 64) : State :=
  { params := Config.standard, regs := some (built 64 v width taps seed), inputs := [], responses := [] }

/-- An 8-bit engine without the hardware population count, holding an instance. -/
def engine8 (v : Variant) (width : Nat) (taps : List Nat) (seed : Word 8) : State :=
  { params := { topBit := 7, hasPopcnt := false }, regs := some (built 8 v width taps seed), inputs := [],
    responses := [] }

/-- The response of one outcome, as R65 writes it. -/
def answer (o : Host.Outcome State Fault Refusal) : String :=
  match o with
  | .next t => match t.responses.getLast? with
    | some r => r.assembly
    | none => "NO RESPONSE"
  | .fault _ => "FAULT"
  | .refused _ => "REFUSED"

/-- What one outcome leaves in TAPS, TAPMASK and STATE. -/
def leaves (o : Host.Outcome State Fault Refusal) : Option (List Nat × Nat × Nat) :=
  match o with
  | .next t => t.regs.map fun r => (r.taps, r.tapmask.toNat, r.state.toNat)
  | .fault _ => none
  | .refused _ => none

/-- The variant one outcome leaves. -/
def leavesVariant (o : Host.Outcome State Fault Refusal) : Option Variant :=
  match o with
  | .next t => t.regs.map fun r => r.variant
  | .fault _ => none
  | .refused _ => none

/-! ## WellFormed: one ill-formed term for each check, and the largest well-formed one -/

theorem test_wf_naive : (Instr.constructNaive 7 [1] 256).wellFormed 8 = false := by decide
theorem test_wf_countones : (Instr.constructCountones 7 [1] 256).wellFormed 8 = false := by decide
theorem test_wf_popcnt : (Instr.constructPopcnt 7 [1] 256).wellFormed 8 = false := by decide
theorem test_wf_galois : (Instr.constructGalois 7 [1] 256).wellFormed 8 = false := by decide
theorem test_wf_galoisFib : (Instr.constructGaloisFib 7 [1] 256).wellFormed 8 = false := by decide
theorem test_wf_set : (Instr.set 256).wellFormed 8 = false := by decide
theorem test_wf_largest : (Instr.set 255).wellFormed 8 = true ∧ (Instr.constructNaive 0 [] 255).wellFormed 8 = true := by
  decide

/-! ## Decoding: the opcodes of R58, bit by bit, with the operands of a record (R56) -/

/-- A record with every operand field set, so that a wrong or dropped field shows. -/
def record (op : BitVec 8) : Command 64 := ⟨op, 7, [1, 7], 0x27#64, 35⟩

theorem test_decode_naive : decode (record 0b00010000#8) = .ok (.constructNaive 7 [1, 7] 0x27) := by decide
theorem test_decode_countones : decode (record 0b00010001#8) = .ok (.constructCountones 7 [1, 7] 0x27) := by decide
theorem test_decode_popcnt : decode (record 0b00010010#8) = .ok (.constructPopcnt 7 [1, 7] 0x27) := by decide
theorem test_decode_galois : decode (record 0b00010011#8) = .ok (.constructGalois 7 [1, 7] 0x27) := by decide
theorem test_decode_galoisFib : decode (record 0b00010100#8) = .ok (.constructGaloisFib 7 [1, 7] 0x27) := by decide
theorem test_decode_clock : decode (record 0b00100000#8) = .ok .clock := by decide
theorem test_decode_multiclock : decode (record 0b00100001#8) = .ok (.multiclock 35) := by decide
theorem test_decode_get : decode (record 0b00100010#8) = .ok .get := by decide
theorem test_decode_set : decode (record 0b00100011#8) = .ok (.set 0x27) := by decide
theorem test_decode_taps : decode (record 0b00100100#8) = .ok .taps := by decide
theorem test_decode_width : decode (record 0b00100101#8) = .ok .width := by decide
theorem test_decode_tapmask : decode (record 0b00110000#8) = .ok (.tapmask 7 [1, 7]) := by decide

/-- V-O11, and the ends of the reserved ranges of R62. -/
theorem test_decode_reserved : ∀ op ∈ [0x00, 0x0F, 0x15, 0x1F, 0x26, 0x2F, 0x31, 0xFF],
    decode (record op) = .error (.reservedOpcode op) := by decide

theorem test_table_word : decodeTableWord 8 0x23 = some (.set 0) ∧ decodeTableWord 8 0x15 = none := by decide

/-- R65's own example, with the seed in decimal. -/
theorem test_assembly : (Instr.constructNaive 7 [1, 7] 0b100111).assembly = "CONSTRUCT.NAIVE 7, [1, 7], 39" := by decide

theorem test_assembly_empty_list : (Instr.tapmask 8 []).assembly = "TAPMASK 8, []" := by decide

/-! ## The builder (TAPMASK): V-B4, V-B8, V-B13, V-B14, V-B17, V-B18, V-B19, V-O12 -/

theorem test_tapmask_13 : answer (exec (.tapmask 13 [1, 10, 11, 13]) State.reset) = "OK 5633" := by decide

theorem test_tapmask_errors :
    build 64 8 [3, 3] = .ok 0x04#64 ∧ build 64 7 [3, 9, 8] = .error (.tapOutOfRange 9 7) ∧
    build 64 65 [70] = .error (.unsupportedWidth 65) ∧ build 64 0 [1] = .error (.tapOutOfRange 1 0) ∧
    build 64 0 [] = .error (.unsupportedWidth 0) ∧ build 8 9 [9] = .error (.unsupportedWidth 9) := by
  refine ⟨?_, ?_, ?_, ?_, ?_, ?_⟩ <;> rfl

/-! ## Construction: the examples of R110, R120, R130, R140, R145; V-G16; P5 line 3 -/

theorem test_construct_naive :
    leaves (exec (.constructNaive 7 [1, 7] 0b100111) State.reset) = some ([1, 7], 0x41, 0x27) := by decide

/-- P5 line 3: the GALOIS instance is gone. -/
theorem test_construct_replaces :
    leaves (exec (.constructNaive 4 [1, 2] 0x8) (engine .galois 7 [7, 6] 0x52#64)) = some ([1, 2], 0x3, 0x8) ∧
    leavesVariant (exec (.constructNaive 4 [1, 2] 0x8) (engine .galois 7 [7, 6] 0x52#64)) = some .naive := by decide

theorem test_construct_countones :
    leaves (exec (.constructCountones 7 [1, 7] 0x27) State.reset) = some ([1, 7], 0x41, 0x27) := by decide

/-- P2 line 11: the failed construction leaves the instance. -/
theorem test_construct_countones_error :
    answer (exec (.constructCountones 7 [9] 0) (engine .countones 7 [1, 7] 0x4E#64)) = "ERR_TAP_OUT_OF_RANGE(9, 7)" ∧
    leaves (exec (.constructCountones 7 [9] 0) (engine .countones 7 [1, 7] 0x4E#64)) = some ([1, 7], 0x41, 0x4E) := by
  decide

theorem test_construct_popcnt :
    leavesVariant (exec (.constructPopcnt 7 [1, 7] 0x27) State.reset) = some .popcnt := by decide

theorem test_construct_galois :
    leaves (exec (.constructGalois 7 [7, 6] 44) State.reset) = some ([7, 6], 0x60, 0x2C) := by decide

theorem test_construct_galoisFib :
    leaves (exec (.constructGaloisFib 7 [1, 2] 44) State.reset) = some ([7, 6], 0x60, 0x2C) ∧
    leavesVariant (exec (.constructGaloisFib 7 [1, 2] 44) State.reset) = some .galois := by decide

theorem test_construct_galoisFib_error :
    answer (exec (.constructGaloisFib 7 [1, 8] 0) State.reset) = "ERR_TAP_OUT_OF_RANGE(8, 7)" := by decide

/-! ## The register contract: V-O1 to V-O10 -/

theorem test_clock : answer (exec .clock (engine .naive 7 [1, 7] 0x27#64)) = "OK 1" ∧
    leaves (exec .clock (engine .naive 7 [1, 7] 0x27#64)) = some ([1, 7], 0x41, 0x53) := by decide

/-- V-F3, COUNTONES, and V-G3, GALOIS. -/
theorem test_clock_mask_variants :
    leaves (exec .clock (engine .countones 5 [2, 3, 5] 0x16#64)) = some ([2, 3, 5], 0x16, 0x1B) ∧
    leaves (exec .clock (engine .galois 7 [7, 1] 0x27#64)) = some ([7, 1], 0x41, 0x52) := by decide

theorem test_multiclock_4 : answer (exec (.multiclock 4) (engine .naive 7 [1, 7] 0x27#64)) = "OK [1, 1, 1, 0]" ∧
    leaves (exec (.multiclock 4) (engine .naive 7 [1, 7] 0x27#64)) = some ([1, 7], 0x41, 0x6A) := by decide

theorem test_multiclock_0 : answer (exec (.multiclock 0) (engine .naive 7 [1, 7] 0x27#64)) = "OK []" := by decide

theorem test_get : answer (exec .get (engine .naive 7 [1, 7] 0x1A7#64)) = "OK 423" := by decide

/-- S4: no masking to 7 bits. -/
theorem test_set : leaves (exec (.set 0xFFFFFFFFFFFFFFFF) (engine .naive 7 [1, 7] 0#64)) =
    some ([1, 7], 0x41, 0xFFFFFFFFFFFFFFFF) := by decide

theorem test_taps : answer (exec .taps (engine .naive 7 [1, 1, 7] 0#64)) = "OK [1, 1, 7]" := by decide

theorem test_width : answer (exec .width (engine .naive 7 [1, 7] 0x27#64)) = "OK 7" := by decide

/-- V-O10. -/
theorem test_unconfigured : ∀ i ∈ [Instr.clock, .multiclock 1, .get, .set 0, .taps, .width],
    answer (exec i State.reset) = "REFUSED" := by decide

/-! ## The step functions -/

/-- R127, R119 and V-F16: single Fibonacci steps, a non-canonical one among them. -/
theorem test_fib_steps :
    nextWord true .countones 16 [1, 3, 4, 6] 0x2D#64 0xACE1#64 = 0x5670#64 ∧
    nextWord true .naive 7 [1, 7] 0x41#64 0x49#64 = 0x24#64 ∧
    nextWord false .popcnt 7 [1, 7] 0x41#64 0x1A7#64 = 0xD3#64 := by decide

/-- R123: with tap 1 twice NAIVE computes `s[6]`, COUNTONES `s[0] ^ s[6]`. -/
theorem test_repeated_tap :
    nextWord true .naive 7 [1, 1, 7] 0x41#64 0x27#64 = 0x13#64 ∧
    nextWord true .countones 7 [1, 1, 7] 0x41#64 0x27#64 = 0x53#64 := by decide

/-- V-F13 (`W = 8`, width 8): the feedback enters the top bit. -/
theorem test_width_8 : leaves (exec .clock (engine8 .popcnt 8 [1, 8] 0x80#8)) = some ([1, 8], 0x81, 0xC0) := by decide

/-- V-G14 and R149: non-canonical Galois steps. -/
theorem test_galois_steps :
    galStep 0x41#64 0xFFFFFFFFFFFFFFFF#64 = 0x7FFFFFFFFFFFFFBE#64 ∧ galStep 0x41#64 0xA7#64 = 0x12#64 := by decide

/-- The `F2G` values of R168. -/
theorem test_f2g : f2g 7 [1, 7] 0x27#64 = 0x69#64 ∧ f2g 7 [1, 2] 44#64 = 44#64 ∧
    f2g 13 [1, 10, 11, 13] 7413#64 = 3559#64 ∧ f2g 4 [1, 2] 0x9#64 = 0x1#64 := by decide

/-- R81 by hand: at `W = 8` and width 20, tap 9 is bit 0 of word 1 and tap 20 bit 3 of word 2. -/
theorem test_mask_words : maskWords 8 20 [1, 9, 20] = [0x01#8, 0x01#8, 0x08#8] := by decide

/-! ## The step and the ports -/

/-- A TAPMASK record with no taps at width 0 on the freshly reset engine: R77 case b. -/
theorem test_step_fetch : answer (step (State.reset.withFetchWord 8 0x30)) = "ERR_UNSUPPORTED_WIDTH(0)" := by decide

theorem test_step_reserved : step (State.reset.withFetchWord 8 0x15) = .refused (.reservedOpcode 0x15#8) := rfl

/-- R200: reset takes the instance away. -/
theorem test_step_reset :
    leaves (step ((engine .naive 7 [1, 7] 0x27#64).withInputs [.reset])) = none ∧
    answer (step ((engine .naive 7 [1, 7] 0x27#64).withInputs [.reset])) = "NO RESPONSE" := by decide

/-- P3: two engines, B served second; B's TAPS come back mirrored. -/
theorem test_system :
    (match System.run 2 { engines := [(engine .naive 7 [1, 7] 0x27#64).withInputs [.command (encode 64 .clock)],
          (engine .galois 7 [7, 1] 0x27#64).withInputs [.command (encode 64 .taps)]], turns := [0, 1] } with
      | .next z => z.engines.map fun e => (e.responses.getLast?.map Response.assembly)
      | .fault _ => []
      | .refused _ => []) = [some "OK 1", some "OK [7, 1]"] := by decide

/-! ## Witnesses: a state and operands that meet the hypotheses of each statement -/

/-- The state most witnesses use: the spec's own scenario on an 8-bit engine. -/
def scenario : State := engine8 .naive 7 [1, 7] 0x27#8

/-- `scenario` as it is before a command of the host. -/
def before (i : Instr) : State := scenario.withInputs [.command (encode 8 i)]

theorem scenario_regs : scenario.regs = some (built 8 .naive 7 [1, 7] 0x27#8) := rfl

/-- The accepted operands most witnesses use, and the extremes: width 1, width `W`, no taps. -/
theorem accepted_witness :
    Accepted 8 7 [1, 7] ∧ Accepted 8 1 [1] ∧ Accepted 8 8 [8, 1] ∧ Accepted 1 1 [1] ∧ Accepted 8 3 [] := by decide

theorem witness_OpcodeMapDecodes : (encode 8 .clock).op = 0b00100000#8 ∧ decode (encode 8 .clock) = .ok .clock := by decide

theorem witness_DecodeOfEncodeIsTheInstruction : (Instr.set 255).wellFormed 8 = true := by decide

theorem witness_EncodeOfDecodeIsTheRecord : decode (record 0b00010100#8) = .ok (.constructGaloisFib 7 [1, 7] 0x27) := by
  decide

/-- Two different SET records that agree on `a_word`. -/
theorem witness_UnusedOperandFieldsIgnored :
    (⟨0x23#8, 1, [2], 5#8, 3⟩ : Command 8) ≠ ⟨0x23#8, 0, [], 5#8, 0⟩ ∧
    operandUse 0x23#8 = ⟨false, false, true, false⟩ := by decide

/-- The ends of each reserved range (the last clause: `scenario` refuses the first of them). -/
theorem witness_ReservedOpcodesRefused :
    (∀ op ∈ [0x00#8, 0x0F#8], op.toNat ≤ 0x0F) ∧
    (∀ op ∈ [0x15#8, 0x1F#8], 0x15 ≤ op.toNat ∧ op.toNat ≤ 0x1F) ∧
    (∀ op ∈ [0x26#8, 0x2F#8], 0x26 ≤ op.toNat ∧ op.toNat ≤ 0x2F) ∧
    (∀ op ∈ [0x31#8, 0xFF#8], 0x31 ≤ op.toNat ∧ op.toNat ≤ 0xFF) ∧
    (scenario.withFetchWord 8 0x00).inputs = [.command (Command.ofTableWord 8 8 0x00)] := by decide

theorem witness_ReservedOpcodesRefused_refusal :
    step (scenario.withFetchWord 8 0x00) = .refused (.reservedOpcode 0x00#8) := rfl

/-- A command, nothing, and a reset presented. -/
theorem witness_StepRunsTheDecodedCommand :
    (before .get).inputs = [.command (encode 8 .get)] ∧ decode (encode 8 .get) = .ok .get ∧ scenario.inputs = [] ∧
    (scenario.withInputs [.reset]).inputs = [.reset] := by
  decide

/-- The opcodes 0x10, 0x13 (the ends of the first clause) and 0x14 with accepted operands. -/
theorem witness_VariantCodeIsTheConstructorsOpcodeBits :
    (before (.constructNaive 7 [1, 7] 0)).inputs = [.command ⟨0x10#8, 7, [1, 7], 0#8, 0⟩] ∧
    (before (.constructGalois 7 [1, 7] 0)).inputs = [.command ⟨0x13#8, 7, [1, 7], 0#8, 0⟩] ∧
    (before (.constructGaloisFib 7 [1, 7] 0)).inputs = [.command ⟨0x14#8, 7, [1, 7], 0#8, 0⟩] ∧
    Accepted 8 7 [1, 7] := by decide

/-- A TAPMASK that answers with another status than OK. -/
theorem witness_StatusCodesAndWhoMayFail :
    exec (.tapmask 9 []) scenario = .next (scenario.complete scenario.regs (.error (.unsupportedWidth 9))) ∧
    (Response.error (W := 8) (.unsupportedWidth 9)).status ≠ .ok := ⟨rfl, by decide⟩

theorem witness_OneResponsePerCommand :
    exec .get scenario = .next (scenario.complete scenario.regs (.word 0x27#8)) := rfl

theorem witness_ResetLeavesNoInstance : (scenario.withInputs [.reset]).inputs = [.reset] ∧ Instr.get.format = .O :=
  ⟨rfl, rfl⟩

/-- An engine that becomes configured, and one that becomes unconfigured. -/
theorem witness_OnlyConstructConfiguresOnlyResetUnconfigures :
    (∃ t, step (State.reset.withInputs [.command (encode 64 (.constructNaive 7 [1, 7] 0))]) = .next t ∧
      t.cfg = .configured) ∧ State.reset.cfg = .unconfigured ∧
    (∃ t, step (scenario.withInputs [.reset]) = .next t ∧ t.cfg = .unconfigured) ∧ scenario.cfg = .configured :=
  ⟨⟨_, rfl, rfl⟩, rfl, ⟨_, rfl, rfl⟩, rfl⟩

/-- A configured state with the invariant, and a step from it that changes STATE. -/
theorem witness_EngineInvariantKeptByEveryStep :
    (before .clock).Inv ∧ step (before .clock) = .next (scenario.complete (some (built 8 .naive 7 [1, 7] 0x53#8)) (.bit true)) := by
  refine ⟨?_, rfl⟩
  intro r hr
  cases hr
  decide

/-- Both alternatives: a configured engine, and TAPMASK on an unconfigured one. -/
theorem witness_OnlyConstructWritesTheConfiguration :
    Instr.clock.format ≠ .C ∧ (∃ t, exec .clock scenario = .next t) ∧
    (Instr.tapmask 7 [1]).format ≠ .C ∧ (∃ t, exec (.tapmask 7 [1]) State.reset = .next t) :=
  ⟨by decide, ⟨_, rfl⟩, by decide, ⟨_, rfl⟩⟩

theorem witness_ParametersNeverChange : ∃ t, step (before .clock) = .next t := ⟨_, rfl⟩

/-- The lowest and the highest tap, and the same list in another order. -/
theorem witness_MaskBitSetIffTapOccurs :
    (∀ t ∈ [1, 8], 1 ≤ t ∧ t ≤ 8) ∧ [1, 8].Perm [8, 1] ∧ (∀ t ∈ [1, 8], t ≤ 8) := by decide

theorem witness_MultiWordPlacementIsOneWord : Accepted 8 8 [8, 1] := by decide

theorem witness_BuildSucceedsIffAccepted : build 8 8 [8, 1] = .ok 0x81#8 ∧ Accepted 8 8 [8, 1] := ⟨rfl, by decide⟩

/-- One beyond the word, and the word itself. -/
theorem witness_WidthBeyondTheWordRefused : scenario.params.W < 9 ∧ 1 ≤ 8 ∧ (∀ t ∈ [1, 8], 1 ≤ t ∧ t ≤ 8) := by decide

/-- A construction at the smallest width that succeeds. -/
theorem witness_WidthZeroRefused :
    State.reset.Inv ∧
    exec (.constructNaive 1 [1] 0) State.reset =
      .next (State.reset.complete (some (built 64 .naive 1 [1] 0#64)) .ok) := by
  refine ⟨?_, rfl⟩
  intro r hr
  cases hr

/-- A good tap before a tap of 0, a good tap before `width + 1`, and the extreme widths 1 and `W`. -/
theorem witness_FirstOffendingTapReported :
    7 ≤ 8 ∧ (∀ u ∈ [1, 7], 1 ≤ u ∧ u ≤ 7) ∧ 0 < 1 ∧ 7 < 8 ∧ (1 ≤ 1 ∧ 1 ≤ 8) ∧ (1 ≤ 8 ∧ 8 ≤ 8) := by decide

theorem witness_MirroredMaskIsReversed :
    Accepted 8 7 [1, 2] ∧ (1 ≤ 1 ∧ 1 ≤ 7) ∧ (1 ≤ 7 ∧ 7 ≤ 7) ∧ 0 < 7 ∧ 6 < 7 ∧ 7 ≤ 7 := by decide

theorem witness_TapmaskReturnsTheMask :
    Accepted State.reset.params.W 64 [64] ∧ build State.reset.params.W 65 [] = .error (.unsupportedWidth 65) :=
  ⟨by decide, rfl⟩

/-- Operands that succeed and operands that fail, and an opcode of the first clause. -/
theorem witness_ConstructorsInstallTheInstance :
    Accepted scenario.params.W 8 [8, 1] ∧ build scenario.params.W 9 [1] = .error (.unsupportedWidth 9) ∧
    (record 0x13#8).op = 0x13#8 := ⟨by decide, rfl, rfl⟩

theorem witness_GaloisFibConstructorMirrorsTheTaps :
    Accepted scenario.params.W 7 [1, 2] ∧ build scenario.params.W 7 [1, 8] = .error (.tapOutOfRange 8 7) :=
  ⟨by decide, rfl⟩

theorem witness_GaloisFibEqualsDirectWithMirroredTaps : Accepted scenario.params.W 7 [1, 2] := by decide

/-- The last tap is out of range in each of the two ways; and a width out of range. -/
theorem witness_GaloisFibReportsTheCallersTap :
    7 ≤ scenario.params.W ∧ (∀ u ∈ [1], 1 ≤ u ∧ u ≤ 7) ∧ 0 < 1 ∧ 7 < 8 ∧ ¬ Accepted scenario.params.W 9 [1] := by decide

/-- Both errors. -/
theorem witness_AnErrorWritesNoRegister :
    build scenario.params.W 9 [] = .error (.unsupportedWidth 9) ∧
    build scenario.params.W 7 [8] = .error (.tapOutOfRange 8 7) ∧
    exec (.tapmask 7 [8]) scenario = .next (scenario.complete scenario.regs (.error (.tapOutOfRange 8 7))) :=
  ⟨rfl, rfl, rfl⟩

theorem witness_ConstructReplacesOrLeavesTheInstance : (Instr.constructGaloisFib 7 [1, 8] 0).format = .C := by decide

theorem witness_OperateNeedsAnInstance : Instr.get.format = .O ∧ State.reset.regs = none := by decide

theorem witness_ConfiguredEngineNeverFails :
    (Instr.multiclock 3).format = .O ∧ scenario.regs = some (built 8 .naive 7 [1, 7] 0x27#8) := ⟨rfl, rfl⟩

theorem witness_ClockReturnsBitZeroAndSteps :
    scenario.regs = some (built 8 .naive 7 [1, 7] 0x27#8) ∧ State.reset.regs = none := ⟨rfl, rfl⟩

theorem witness_MulticlockReturnsTheOutputBits :
    scenario.regs = some (built 8 .naive 7 [1, 7] 0x27#8) ∧ State.reset.regs = none := ⟨rfl, rfl⟩

/-- Two clocks presented, and a reset after them. -/
theorem witness_MulticlockEqualsTheLoopOfClocks :
    (scenario.withInputs [.command (encode 8 .clock), .command (encode 8 .clock), .reset]).inputs =
      List.replicate 2 (.command (encode 8 .clock)) ++ [.reset] ∧
    scenario.regs = some (built 8 .naive 7 [1, 7] 0x27#8) := ⟨rfl, rfl⟩

theorem witness_MulticlockSplits : scenario.regs = some (built 8 .naive 7 [1, 7] 0x27#8) := rfl

theorem witness_GetTapsWidthReadTheRegisters :
    scenario.regs = some (built 8 .naive 7 [1, 7] 0x27#8) ∧ scenario.Inv ∧ Accepted scenario.params.W 7 [1, 2] ∧
    State.reset.regs = none := by
  refine ⟨rfl, ?_, by decide, rfl⟩
  intro r hr
  cases hr
  decide

theorem witness_SetWritesTheWholeState :
    scenario.regs = some (built 8 .naive 7 [1, 7] 0x27#8) ∧ State.reset.regs = none := ⟨rfl, rfl⟩

theorem witness_SetEqualsReseeding : Accepted scenario.params.W 7 [1, 7] := by decide

/-- A list in another order, and a word that differs only at `width` and above. -/
theorem witness_FoldFeedbackCountsEveryTap :
    [1, 7].Perm [7, 1] ∧ (∀ t ∈ [1, 7], 1 ≤ t ∧ t ≤ 7) ∧ (0xA7#8 ≠ 0x27#8) ∧
    (∀ i, i < 7 → (0xA7#8).getLsbD i = (0x27#8).getLsbD i) := by decide

/-- A Fibonacci instance; width below, and equal to, the word; and the bits next to the feedback bit. -/
theorem witness_FibonacciStepBitByBit :
    (scenario.regs = some (built 8 .naive 7 [1, 7] 0x27#8) ∧ (built 8 .naive 7 [1, 7] 0x27#8).variant ≠ .galois) ∧
    (1 ≤ 7 ∧ 7 ≤ 8 ∧ 7 < 8) ∧ (1 ≤ 8 ∧ 8 ≤ 8 ∧ 8 = 8) ∧ (5 + 2 ≤ 8 ∧ 5 + 1 ≠ 7) ∧ (0 + 2 ≤ 8 ∧ 0 + 1 ≠ 7) :=
  ⟨⟨rfl, by decide⟩, by decide⟩

/-- Lists with and without odd multiplicity. -/
theorem witness_ParityEqualsFoldIffOddMultiplicity :
    Accepted 8 7 [1, 7] ∧ OddTaps [1, 7] ∧ Accepted 8 7 [1, 1, 7] ∧ ¬ OddTaps [1, 1, 7] := by decide

theorem witness_NaiveMatchesCountonesIffOddMultiplicity :
    Accepted 8 7 [1, 1, 1, 7] ∧ OddTaps [1, 1, 1, 7] := by decide

/-- Twins that are two machines. -/
theorem witness_CountonesAndPopcntAreTheSameMachine :
    PopcntTwin (engine8 .countones 7 [1, 7] 0x27#8) (engine8 .popcnt 7 [1, 7] 0x27#8) ∧
    engine8 .countones 7 [1, 7] 0x27#8 ≠ engine8 .popcnt 7 [1, 7] 0x27#8 :=
  ⟨.inr ⟨built 8 .countones 7 [1, 7] 0x27#8, rfl, rfl, rfl⟩, by decide⟩

theorem witness_CountonesAndPopcntAreTheSameMachine_run :
    (∃ t, run 1 ((engine8 .countones 7 [1, 7] 0x27#8).withInputs [.command (encode 8 .clock)]) = .next t) ∧
    run 1 ((engine8 .countones 7 [1, 7] 0x27#8).withFetchWord 8 0x15) = .refused (.reservedOpcode 0x15#8) :=
  ⟨⟨_, rfl⟩, rfl⟩

theorem witness_HasPopcntIsUnobservable :
    (∃ t, step ((engine8 .popcnt 7 [1, 7] 0x27#8).withInputs [.command (encode 8 .clock)]) = .next t) ∧
    step (State.reset.withFetchWord 8 0x20) = .refused .unconfigured := ⟨⟨_, rfl⟩, rfl⟩

theorem witness_GaloisStepBitByBit :
    ((engine8 .galois 7 [7, 1] 0x27#8).regs = some (built 8 .galois 7 [7, 1] 0x27#8) ∧
      (built 8 .galois 7 [7, 1] 0x27#8).variant = .galois) ∧ 1 ≤ 8 ∧ 0 + 2 ≤ 8 ∧ 6 + 2 ≤ 8 :=
  ⟨⟨rfl, rfl⟩, by decide⟩

theorem witness_ParityFeedbackIsXorOfMaskedBits :
    (engine8 .countones 7 [1, 7] 0x27#8).regs = some (built 8 .countones 7 [1, 7] 0x27#8) ∧
    (built 8 .countones 7 [1, 7] 0x27#8).variant = .countones := ⟨rfl, rfl⟩

theorem witness_CanonicalStatesAreClosed :
    (built 8 .galois 7 [1, 7] 0x27#8).Valid ∧ Canonical 7 (0x27#8) := by decide

/-- A non-canonical state of width 7 at `W = 8`: one clock drains it. -/
theorem witness_DeadStateDrains :
    (built 8 .naive 7 [1, 7] 0xA7#8).Valid ∧ ¬ Canonical 7 (0xA7#8) ∧ 7 ≤ 7 ∧ 8 - 7 ≤ 1 := by decide

theorem witness_EmptyTapListOnlyShifts :
    (built 8 .countones 3 [] 0x5#8).Valid ∧ (built 8 .countones 3 [] 0x5#8).taps = [] ∧ Canonical 3 (0x5#8) ∧ 3 ≤ 3 := by
  decide

theorem witness_ZeroStateIsAbsorbing : (built 8 .galois 7 [1, 7] 0#8).state = 0#8 := rfl

theorem witness_StepsAreLinear : Accepted 8 7 [1, 7] ∧ Canonical 7 (0x27#8) ∧ Canonical 7 (0x49#8) := by decide

theorem witness_FibonacciOutputRecurrence : Accepted 8 7 [1, 1, 7] ∧ Canonical 7 (0x27#8) ∧ 0 < 7 ∧ 6 < 7 := by decide

theorem witness_GaloisOutputRecurrence : Accepted 8 7 [1, 7] ∧ Canonical 7 (0x27#8) := by decide

/-- Canonical words with and without `F2G(s) = s`, and odd multiplicity. -/
theorem witness_SeedTransformMakesGaloisMatchFibonacci :
    Accepted 8 7 [1, 7] ∧ OddTaps [1, 7] ∧ Canonical 7 (0x27#8) ∧ f2g 7 [1, 7] 0x27#8 = 0x69#8 := by decide

theorem witness_SameSeedSameOutputIffFixedByTransform :
    Accepted 8 7 [1, 2] ∧ Canonical 7 (44#8) ∧ f2g 7 [1, 2] 44#8 = 44#8 ∧ f2g 7 [1, 7] 0x27#8 ≠ 0x27#8 := by decide

/-- Two engines served in turn, to the end. -/
theorem witness_EnginesRunAsIfAlone :
    ∃ z, System.run 3 { engines := [before .clock, before .get], turns := [1, 0, 1] } = .next z := ⟨_, rfl⟩

theorem witness_EnginesRunAsIfAlone_alone : ∀ (k : Nat) (e : State), [before .clock, before .get][k]? = some e →
    ∃ e', run ([1, 0, 1].count k) e = .next e' := by
  intro k e he
  match k with
  | 0 => cases he; exact ⟨_, rfl⟩
  | 1 => cases he; exact ⟨_, rfl⟩
  | k + 2 => simp at he

end Sys2Proof.Tests
end

/-! PROOFS. HAS_POPCNT is unobservable (R9): every step commutes with replacing the parameter. -/

namespace Sys2Proof.Machine

/-! ## Acting on the next state of an outcome -/

/-- The outcome with its next state, if it has one, replaced by its image under `f`. -/
def mapNext (f : State → State) : Host.Outcome State Fault Refusal → Host.Outcome State Fault Refusal
  | .next s => .next (f s)
  | .fault e => .fault e
  | .refused e => .refused e

@[simp] theorem mapNext_next (f : State → State) (s : State) : mapNext f (.next s) = .next (f s) := rfl
@[simp] theorem mapNext_refused (f : State → State) (e : Refusal) : mapNext f (.refused e) = .refused e := rfl

/-! ## The word operations do not depend on HAS_POPCNT -/

theorem nextWord_hasPopcnt_irrel {W : Nat} (hw hw' : Bool) (v : Variant) (width : Nat) (taps : List Nat)
    (m x : Word W) : nextWord hw v width taps m x = nextWord hw' v width taps m x := by
  cases v with
  | popcnt => simp only [nextWord, fbPopcnt_eq_fbParity]
  | naive | countones | galois => rfl

theorem Registers.clocked_hasPopcnt_irrel {W : Nat} (hw hw' : Bool) (r : Registers W) :
    r.clocked hw = r.clocked hw' := by
  rw [Registers.clocked, nextWord_hasPopcnt_irrel hw hw', Registers.clocked]

theorem clockLoop_hasPopcnt_irrel {W : Nat} (hw hw' : Bool) (n : Nat) (r : Registers W) :
    clockLoop hw n r = clockLoop hw' n r := by
  induction n generalizing r with
  | zero => rfl
  | succ n ih => rw [clockLoop, clockLoop, Registers.clocked_hasPopcnt_irrel hw hw', ih]

/-! ## The ways a command ends commute with replacing HAS_POPCNT -/

section WithPopcnt
variable (s : State) (b : Bool)

/-- A format-O command commutes with `withPopcnt` where its body does. -/
theorem State.requireConfigured_withPopcnt {body body' : Registers s.params.W → State}
    (h : ∀ r, body' r = (body r).withPopcnt b) :
    (s.withPopcnt b).requireConfigured body' = mapNext (·.withPopcnt b) (s.requireConfigured body) := by
  obtain ⟨hs, hrun⟩ | ⟨r, hs, hrun⟩ := s.requireConfigured_cases body
  · rw [hrun, mapNext_refused]
    exact State.requireConfigured_none (s := s.withPopcnt b) hs body'
  · rw [hrun, mapNext_next, ← h]
    exact State.requireConfigured_some (s := s.withPopcnt b) hs body'

theorem State.construct_withPopcnt (v : Variant) (width : Nat) (taps : List Nat) (seed : Word s.params.W) :
    (s.withPopcnt b).construct v width taps seed = (s.construct v width taps seed).withPopcnt b := by
  unfold State.construct
  cases build s.params.W width taps <;> rfl

/-! ## Commands and steps -/

theorem execClock_withPopcnt : execClock (s.withPopcnt b) = mapNext (·.withPopcnt b) (execClock s) :=
  s.requireConfigured_withPopcnt b fun r => by
    rw [Registers.clocked_hasPopcnt_irrel (s.withPopcnt b).params.hasPopcnt s.params.hasPopcnt r]

theorem execMulticlock_withPopcnt (n : Nat) :
    execMulticlock n (s.withPopcnt b) = mapNext (·.withPopcnt b) (execMulticlock n s) :=
  s.requireConfigured_withPopcnt b fun r => by
    rw [clockLoop_hasPopcnt_irrel (s.withPopcnt b).params.hasPopcnt s.params.hasPopcnt n r]

theorem execConstructGaloisFib_withPopcnt (width : Nat) (taps : List Nat) (seed : Nat) :
    execConstructGaloisFib width taps seed (s.withPopcnt b) =
      mapNext (·.withPopcnt b) (execConstructGaloisFib width taps seed s) := by
  unfold execConstructGaloisFib
  cases build s.params.W width taps with
  | error e => rfl
  | ok m => exact congrArg Host.Outcome.next (s.construct_withPopcnt b _ _ _ _)

theorem execTapmask_withPopcnt (width : Nat) (taps : List Nat) :
    execTapmask width taps (s.withPopcnt b) = mapNext (·.withPopcnt b) (execTapmask width taps s) := by
  unfold execTapmask
  cases build s.params.W width taps <;> rfl

theorem exec_withPopcnt (i : Instr) : exec i (s.withPopcnt b) = mapNext (·.withPopcnt b) (exec i s) := by
  cases i with
  | constructNaive | constructCountones | constructPopcnt | constructGalois =>
    exact congrArg Host.Outcome.next (s.construct_withPopcnt b _ _ _ _)
  | constructGaloisFib width taps seed => exact execConstructGaloisFib_withPopcnt s b width taps seed
  | clock => exact execClock_withPopcnt s b
  | multiclock n => exact execMulticlock_withPopcnt s b n
  | get | set | taps | width => exact s.requireConfigured_withPopcnt b fun _ => rfl
  | tapmask width taps => exact execTapmask_withPopcnt s b width taps

/-- R9's "no command behaves differently under either value", as one equation about `step`. -/
theorem step_withPopcnt : step (s.withPopcnt b) = mapNext (·.withPopcnt b) (step s) := by
  obtain ⟨params, regs, inputs, responses⟩ := s
  match inputs with
  | [] => rfl
  | .reset :: rest => rfl
  | .command c :: rest =>
    simp only [step]
    cases decode c with
    | error e => rfl
    | ok i => exact exec_withPopcnt ⟨params, regs, rest, responses⟩ b i

end WithPopcnt

/-- Settles O46: the two ways of counting give one feedback bit (R131), and `step` commutes with replacing HAS_POPCNT. -/
theorem hasPopcntIsUnobservable : Obligations.HasPopcntIsUnobservable := by
  unfold Obligations.HasPopcntIsUnobservable
  refine ⟨fun W m x => ⟨rfl, rfl, ?_⟩, fun s b => ⟨fun t h => ?_, fun e h => ?_⟩⟩
  · rw [fbPopcnt_eq_fbParity, fbPopcnt_eq_fbParity]
  · rw [step_withPopcnt, h, mapNext_next]
  · rw [step_withPopcnt, h, mapNext_refused]

end Sys2Proof.Machine

/-! PROOFS. Engines do not interfere (R51, R193): what an engine would do alone in the turns it still has is the same
before and after every step of the system. -/

namespace Sys2Proof.Machine

/-! ## What an engine does alone -/

/-- The outcome of engine `k`, if there is one, run alone for as many steps as it still has turns. -/
def System.aloneRun (y : System) (k : Nat) : Option (Host.Outcome State Fault Refusal) :=
  y.engines[k]?.map (Machine.run (y.turns.count k))

theorem System.aloneRun_some {y : System} {k : Nat} {e : State} (he : y.engines[k]? = some e) :
    y.aloneRun k = some (Machine.run (y.turns.count k) e) := by
  rw [System.aloneRun, he, Option.map_some]

/-- With no turns left, the outcome is the engine as it stands. -/
theorem System.aloneRun_of_no_turns {y : System} (h : y.turns = []) (k : Nat) :
    y.aloneRun k = y.engines[k]?.map .next := by
  rw [System.aloneRun, h, List.count_nil]
  rfl

theorem exists_step_next_of_run_succ {n : Nat} {s t : State} (h : run (n + 1) s = .next t) :
    ∃ s', step s = .next s' := by
  rw [run] at h
  cases hs : step s with
  | next s' => exact ⟨s', rfl⟩
  | fault f => simp [hs] at h
  | refused r => simp [hs] at h

/-! ## What a step of the system keeps -/

theorem System.step_engines_length {y z : System} (h : y.step = .next z) :
    z.engines.length = y.engines.length := by
  obtain ⟨-, rfl⟩ | ⟨k, rest, -, -, rfl⟩ | ⟨k, rest, e, e', -, -, -, rfl⟩ := System.step_cases h
  · rfl
  · rfl
  · exact List.length_set

theorem System.step_turns {y z : System} (h : y.step = .next z) : z.turns = y.turns.tail := by
  obtain ⟨hturns, rfl⟩ | ⟨k, rest, hturns, -, rfl⟩ | ⟨k, rest, e, e', hturns, -, -, rfl⟩ := System.step_cases h
  · rw [hturns, List.tail_nil]
  · rw [hturns, List.tail_cons]
  · rw [hturns, List.tail_cons]

/-- The engine served does the first step of its own run; every other engine keeps both its state and its turns. -/
theorem System.step_aloneRun {y z : System} (h : y.step = .next z) (j : Nat) : z.aloneRun j = y.aloneRun j := by
  obtain ⟨-, rfl⟩ | ⟨k, rest, hturns, hnone, rfl⟩ | ⟨k, rest, e, e', hturns, he, hstep, rfl⟩ := System.step_cases h
  · rfl
  · by_cases hkj : k = j
    · subst hkj
      simp [System.aloneRun, hnone]
    · simp [System.aloneRun, hturns, hkj]
  · by_cases hkj : k = j
    · subst hkj
      have hk : k < y.engines.length := (List.getElem?_eq_some_iff.mp he).1
      have hfirst : Machine.run (y.turns.count k) e = Machine.run (rest.count k) e' := by
        rw [hturns, List.count_cons_self, Machine.run_succ_next hstep]
      rw [System.aloneRun_some he, hfirst]
      exact System.aloneRun_some (List.getElem?_set_self hk)
    · simp [System.aloneRun, hturns, hkj]

/-! ## What a run of the system keeps -/

theorem System.run_succ_cases {n : Nat} {y z : System} (h : System.run (n + 1) y = .next z) :
    ∃ x, y.step = .next x ∧ System.run n x = .next z := by
  rw [System.run] at h
  cases hy : y.step with
  | next x => exact ⟨x, rfl, by simpa [hy] using h⟩
  | fault f => simp [hy] at h
  | refused r => simp [hy] at h

/-- What every step keeps, every run keeps. -/
theorem System.run_keeps {α : Type} (f : System → α) (hstep : ∀ {y z : System}, y.step = .next z → f z = f y)
    {n : Nat} {y z : System} (h : System.run n y = .next z) : f z = f y := by
  induction n generalizing y with
  | zero => cases h; rfl
  | succ n ih =>
    obtain ⟨x, hx, hrun⟩ := System.run_succ_cases h
    exact (ih hrun).trans (hstep hx)

theorem System.run_turns {n : Nat} {y z : System} (h : System.run n y = .next z) : z.turns = y.turns.drop n := by
  induction n generalizing y with
  | zero => cases h; rfl
  | succ n ih =>
    obtain ⟨x, hx, hrun⟩ := System.run_succ_cases h
    rw [ih hrun, System.step_turns hx, List.drop_tail]

/-- Once every turn is served, each engine stands where its own run ended. -/
theorem System.engines_of_run_all {y z : System} (h : System.run y.turns.length y = .next z) (k : Nat) :
    z.engines[k]?.map .next = y.aloneRun k := by
  have hdone : z.turns = [] := by rw [System.run_turns h, List.drop_length]
  rw [← System.aloneRun_of_no_turns hdone k]
  exact System.run_keeps (·.aloneRun k) (fun hstep => System.step_aloneRun hstep k) h

/-! ## The system runs when each engine alone does -/

/-- Every engine, run alone, ends in a next state. -/
def System.EachRunsAlone (y : System) : Prop :=
  ∀ (k : Nat) (e : State), y.engines[k]? = some e → ∃ e' : State, Machine.run (y.turns.count k) e = .next e'

theorem System.eachRunsAlone_iff (y : System) :
    y.EachRunsAlone ↔ ∀ k o, y.aloneRun k = some o → ∃ e', o = .next e' := by
  simp [System.EachRunsAlone, System.aloneRun]

theorem System.step_eachRunsAlone {y z : System} (h : y.step = .next z) (hy : y.EachRunsAlone) :
    z.EachRunsAlone := by
  rw [System.eachRunsAlone_iff] at hy ⊢
  intro k o ho
  exact hy k o (System.step_aloneRun h k ▸ ho)

theorem System.exists_step_next {y : System} (hy : y.EachRunsAlone) : ∃ z, y.step = .next z := by
  rw [System.step]
  cases hturns : y.turns with
  | nil => exact ⟨_, rfl⟩
  | cons k rest =>
    cases he : y.engines[k]? with
    | none => simp [he]
    | some e =>
      obtain ⟨e', hrun⟩ := hy k e he
      rw [hturns, List.count_cons_self] at hrun
      obtain ⟨e₁, hstep⟩ := exists_step_next_of_run_succ hrun
      simp [he, hstep]

theorem System.exists_run_next (n : Nat) {y : System} (hy : y.EachRunsAlone) : ∃ z, System.run n y = .next z := by
  induction n generalizing y with
  | zero => exact ⟨y, rfl⟩
  | succ n ih =>
    obtain ⟨x, hx⟩ := System.exists_step_next hy
    rw [System.run_succ_next hx]
    exact ih (System.step_eachRunsAlone hx hy)

/-- Settles O58: `System.aloneRun` is kept by every run, and a system each of whose engines runs alone never stops. -/
theorem enginesRunAsIfAlone : Obligations.EnginesRunAsIfAlone := by
  unfold Obligations.EnginesRunAsIfAlone
  refine fun y => ⟨fun z h => ⟨?_, fun k e he => ?_⟩, fun hy => System.exists_run_next _ hy⟩
  · exact System.run_keeps (·.engines.length) System.step_engines_length h
  · have hend : z.engines[k]?.map .next = some (run (y.turns.count k) e) := by
      rw [System.engines_of_run_all h, System.aloneRun_some he]
    obtain ⟨e', hz, hrun⟩ := Option.map_eq_some_iff.mp hend
    exact ⟨e', hrun.symm, hz⟩

end Sys2Proof.Machine

/-! PROOFS. The decoder's own facts: it does not read the fields an opcode leaves unused (R63), and it fails on exactly
the reserved opcodes (R62). -/

namespace Sys2Proof

/-! ## Unused operand fields -/

@[simp] theorem Command.normalise_op {W : Nat} (c : Command W) : c.normalise.op = c.op := rfl

/-- Clearing the fields an opcode does not use changes nothing the decoder reads (R63). -/
theorem decode_normalise {W : Nat} (c : Command W) : decode c.normalise = decode c := by
  unfold decode
  rw [Command.normalise_op]
  split
  case h_13 => rfl
  all_goals
    rename_i hop
    simp [Command.normalise, operandUse, hop]

/-- Records that agree on the opcode and the fields it uses are the same record once the other fields are cleared. -/
theorem Command.normalise_congr {W : Nat} {c d : Command W} (hop : c.op = d.op)
    (hwidth : (operandUse c.op).usesWidth = true → c.aWidth = d.aWidth)
    (htaps : (operandUse c.op).usesTaps = true → c.aTaps = d.aTaps)
    (hword : (operandUse c.op).usesWord = true → c.aWord = d.aWord)
    (hcount : (operandUse c.op).usesCount = true → c.aCount = d.aCount) : c.normalise = d.normalise := by
  simp only [Command.normalise, ← hop, Command.mk.injEq, true_and]
  exact ⟨ite_congr rfl hwidth fun _ => rfl, ite_congr rfl htaps fun _ => rfl, ite_congr rfl hword fun _ => rfl,
    ite_congr rfl hcount fun _ => rfl⟩

/-! ## Reserved opcodes -/

/-- The reserved ranges of R62. -/
def ReservedOpcode (op : BitVec 8) : Prop :=
  op.toNat ≤ 0x0F ∨ (0x15 ≤ op.toNat ∧ op.toNat ≤ 0x1F) ∨ (0x26 ≤ op.toNat ∧ op.toNat ≤ 0x2F) ∨
    (0x31 ≤ op.toNat ∧ op.toNat ≤ 0xFF)

theorem decode_reserved {W : Nat} {c : Command W} (h : ReservedOpcode c.op) :
    decode c = .error (.reservedOpcode c.op) := by
  unfold ReservedOpcode at h
  unfold decode
  split
  case h_13 => rfl
  all_goals omega

/-- The decoder fails on the reserved opcodes only, and names the opcode it failed on. -/
theorem decode_error {W : Nat} {c : Command W} {e : DecodeError} (h : decode c = .error e) :
    e = .reservedOpcode c.op ∧ ReservedOpcode c.op := by
  unfold decode at h
  split at h
  case h_13 =>
    cases h
    have hlt : c.op.toNat < 256 := c.op.isLt
    refine ⟨rfl, ?_⟩
    unfold ReservedOpcode
    simp only [imp_false] at *
    omega
  all_goals cases h

end Sys2Proof

/-! PROOFS. Who answers what (R61 to R63): a step reads a command through the decoder only, and a command is refused for
want of an instance or answers one response, which is an error only outside format O. -/

namespace Sys2Proof.Machine

/-! ## Responses and their status -/

theorem Status.code_injective : Function.Injective Status.code := by
  intro a b h
  cases a <;> cases b <;> simp_all [Status.code]

theorem Status.code_ne_three (st : Status) : st.code ≠ 0b11#2 := by cases st <;> decide

/-- Which responses carry each status (R57, R181, R182). -/
theorem Response.status_eq_iff {W : Nat} (resp : Response W) :
    (resp.status = .ok ↔ ∀ e, resp ≠ .error e) ∧
    (resp.status = .errUnsupportedWidth ↔ ∃ w, resp = .error (.unsupportedWidth w)) ∧
    (resp.status = .errTapOutOfRange ↔ ∃ t w, resp = .error (.tapOutOfRange t w)) := by
  cases resp with
  | error e => cases e <;> simp [Response.status, BuildError.status]
  | ok | bit | bits | word | nat | list => simp [Response.status]

/-! ## What a command can do -/

theorem State.complete_inj {s : State} {g g' : Option (Registers s.params.W)} {resp resp' : Response s.params.W} :
    s.complete g resp = s.complete g' resp' ↔ g = g' ∧ resp = resp' := by simp

/-- The outcomes a format-O command can have: refused for want of an instance (R91), or a response with status OK
(R97). -/
def OperateOutcome (s : State) (o : Host.Outcome State Fault Refusal) : Prop :=
  (s.regs = none ∧ o = .refused .unconfigured) ∨
    ∃ (g : Option (Registers s.params.W)) (resp : Response s.params.W),
      o = .next (s.complete g resp) ∧ resp.status = .ok

theorem State.requireConfigured_operateOutcome {s : State} {g : Registers s.params.W → Option (Registers s.params.W)}
    {resp : Registers s.params.W → Response s.params.W} (hok : ∀ r, (resp r).status = .ok) :
    OperateOutcome s (s.requireConfigured fun r => s.complete (g r) (resp r)) := by
  obtain h | ⟨r, -, h⟩ := s.requireConfigured_cases fun r => s.complete (g r) (resp r)
  · exact .inl h
  · exact .inr ⟨g r, resp r, h, hok r⟩

theorem State.construct_completes (s : State) (v : Variant) (width : Nat) (taps : List Nat) (seed : Word s.params.W) :
    ∃ g resp, s.construct v width taps seed = s.complete g resp := by
  obtain ⟨e, -, h⟩ | ⟨m, -, h⟩ := s.construct_cases v width taps seed
  · exact ⟨_, _, h⟩
  · exact ⟨_, _, h⟩

theorem exec_operate {i : Instr} (hi : i.format = .O) (s : State) : OperateOutcome s (exec i s) := by
  cases i with
  | clock | multiclock | get | set | taps | width => exact State.requireConfigured_operateOutcome fun _ => rfl
  | constructNaive | constructCountones | constructPopcnt | constructGalois | constructGaloisFib | tapmask => cases hi

/-- Constructors and TAPMASK always answer, in either CFG (R85, R94). -/
theorem exec_completes_of_format_ne_O {i : Instr} (hi : i.format ≠ .O) (s : State) :
    ∃ g resp, exec i s = .next (s.complete g resp) := by
  cases i with
  | clock | multiclock | get | set | taps | width => exact absurd rfl hi
  | constructNaive | constructCountones | constructPopcnt | constructGalois =>
    obtain ⟨g, resp, h⟩ := s.construct_completes _ _ _ _
    exact ⟨g, resp, congrArg Host.Outcome.next h⟩
  | constructGaloisFib width taps seed =>
    simp only [exec, execConstructGaloisFib]
    cases build s.params.W width taps with
    | error e => exact ⟨_, _, rfl⟩
    | ok m =>
      obtain ⟨g, resp, h⟩ := s.construct_completes _ _ _ _
      exact ⟨g, resp, congrArg Host.Outcome.next h⟩
  | tapmask width taps =>
    simp only [exec, execTapmask]
    cases build s.params.W width taps with
    | error e => exact ⟨_, _, rfl⟩
    | ok m => exact ⟨_, _, rfl⟩

/-- A command that decodes is refused for want of an instance only (R91). -/
theorem exec_refused {i : Instr} {s : State} {e : Refusal} (h : exec i s = .refused e) : e = .unconfigured := by
  by_cases hi : i.format = .O
  · obtain ⟨-, hs⟩ | ⟨g, resp, hs, -⟩ := exec_operate hi s
    · cases hs.symm.trans h; rfl
    · cases hs.symm.trans h
  · obtain ⟨g, resp, hs⟩ := exec_completes_of_format_ne_O hi s
    cases hs.symm.trans h

/-! ## What a step reads of a command, and when it refuses one -/

/-- A step sees a record only as the decoder reads it. -/
theorem step_command_congr {s : State} {c d : Command s.params.W} (h : decode c = decode d)
    (rest : List (HostEvent s.params.W)) :
    step (s.withInputs (.command c :: rest)) = step (s.withInputs (.command d :: rest)) := by
  simp only [step, h]

theorem step_reserved {s : State} {c : Command s.params.W} {rest : List (HostEvent s.params.W)}
    (hs : s.inputs = .command c :: rest) (hop : ReservedOpcode c.op) : step s = .refused (.reservedOpcode c.op) := by
  have hdecode : decode c = .error (.reservedOpcode c.op) := decode_reserved hop
  simp only [step, hs, hdecode]

/-- Everything a step that is refused can have met. -/
theorem step_refused_cases {s : State} {e : Refusal} (h : step s = .refused e) :
    ∃ c rest, s.inputs = .command c :: rest ∧
      ((∃ op, decode c = .error (.reservedOpcode op) ∧ e = .reservedOpcode op) ∨
        ∃ i, decode c = .ok i ∧ exec i (s.withInputs rest) = .refused e) := by
  unfold step at h
  split at h
  · cases h
  · cases h
  · refine ⟨_, _, ‹_›, ?_⟩
    split at h
    · exact .inr ⟨_, ‹_›, h⟩
    · exact .inl ⟨_, ‹_›, by cases h; rfl⟩

/-- The converse of `step_reserved`: no other opcode is refused as reserved. -/
theorem reservedOpcode_of_step_refused {s : State} {op : BitVec 8} (h : step s = .refused (.reservedOpcode op)) :
    ReservedOpcode op := by
  obtain ⟨c, rest, -, ⟨op', hdecode, he⟩ | ⟨i, -, hexec⟩⟩ := step_refused_cases h
  · obtain ⟨hop, hreserved⟩ := decode_error hdecode
    cases he
    cases hop
    exact hreserved
  · cases exec_refused hexec

/-! ## The obligations -/

/-- Settles O4: the two records are the same once normalised, and the decoder cannot tell a record from its
normalised form. -/
theorem unusedOperandFieldsIgnored : Obligations.UnusedOperandFieldsIgnored := by
  unfold Obligations.UnusedOperandFieldsIgnored
  intro s c d rest hop hwidth htaps hword hcount
  have hdecode : decode c = decode d := by
    rw [← decode_normalise c, Command.normalise_congr hop hwidth htaps hword hcount, decode_normalise]
  exact step_command_congr hdecode rest

/-- Settles O5: the decoder fails on exactly the reserved opcodes, and `exec` refuses nothing as reserved. -/
theorem reservedOpcodesRefused : Obligations.ReservedOpcodesRefused := by
  unfold Obligations.ReservedOpcodesRefused
  exact ⟨fun _ _ _ hs hop => step_reserved hs hop, fun _ _ h => reservedOpcode_of_step_refused h⟩

/-- Settles O8: the codes are those of three distinct statuses, and a format-O command that answers answers OK. -/
theorem statusCodesAndWhoMayFail : Obligations.StatusCodesAndWhoMayFail := by
  unfold Obligations.StatusCodesAndWhoMayFail
  refine ⟨fun _ resp => resp.status.code_ne_three, fun _ resp => ?_, fun _ resp => ?_, fun _ resp => ?_,
    fun i s g resp h hfail => ?_⟩
  · obtain ⟨hok, -, -⟩ := resp.status_eq_iff
    exact (Status.code_injective.eq_iff (b := .ok)).trans hok
  · obtain ⟨-, hwidth, -⟩ := resp.status_eq_iff
    exact (Status.code_injective.eq_iff (b := .errUnsupportedWidth)).trans hwidth
  · obtain ⟨-, -, htap⟩ := resp.status_eq_iff
    exact (Status.code_injective.eq_iff (b := .errTapOutOfRange)).trans htap
  · cases hi : i.format with
    | C => exact .inl rfl
    | B => exact .inr rfl
    | O =>
      obtain ⟨-, hs⟩ | ⟨g', resp', hs, hok⟩ := exec_operate hi s
      · cases hs.symm.trans h
      · have heq : s.complete g' resp' = s.complete g resp := Host.Outcome.next.inj (hs.symm.trans h)
        obtain ⟨-, rfl⟩ := State.complete_inj.1 heq
        exact absurd hok hfail

end Sys2Proof.Machine

/-! PROOFS. The tapmask builder (R75 to R85): the bits of a mask, the one word of the general placement, and each outcome
of `build` with what the constructors and TAPMASK answer for it. -/

namespace Sys2Proof.Machine

/-! ## The mask (R80) -/

theorem mask_getLsbD_iff_mem {W : Nat} {taps : List Nat} (htaps : ∀ t ∈ taps, 1 ≤ t ∧ t ≤ W) (i : Nat) :
    (mask W taps).getLsbD i = true ↔ i + 1 ∈ taps := by
  rw [mask_getLsbD, decide_eq_true_iff]
  constructor
  · rintro ⟨-, t, ht, rfl⟩
    rwa [Nat.sub_add_cancel (htaps t ht).1]
  · intro hi
    exact ⟨(htaps _ hi).2, i + 1, hi, rfl⟩

/-- Whatever the taps, a mask depends only on which of them occur. -/
theorem mask_congr_mem {W : Nat} {taps taps' : List Nat} (h : ∀ t, t ∈ taps ↔ t ∈ taps') :
    mask W taps = mask W taps' := by
  refine BitVec.eq_of_getLsbD_eq fun i _ => ?_
  simp only [mask_getLsbD, h]

theorem mask_toNat_lt {W : Nat} {taps : List Nat} (htaps : ∀ t ∈ taps, 1 ≤ t ∧ t ≤ W) {width : Nat}
    (hwidth : ∀ t ∈ taps, t ≤ width) : (mask W taps).toNat < 2 ^ width := by
  refine Nat.lt_pow_two_of_testBit _ fun i hi => Bool.eq_false_iff.2 fun hbit => ?_
  have hmem : i + 1 ∈ taps := (mask_getLsbD_iff_mem htaps i).1 hbit
  have hle : i + 1 ≤ width := hwidth _ hmem
  omega

/-! ## The multi-word placement (R81) -/

/-- With every tap within the first word, word 0 of the general placement is the mask. -/
theorem maskWord_zero {W : Nat} {taps : List Nat} (h : ∀ t ∈ taps, t - 1 < W) : maskWord W taps 0 = mask W taps := by
  have hall : taps.filter (fun t => (t - 1) / W == 0) = taps :=
    List.filter_eq_self.2 fun t ht => beq_iff_eq.2 (Nat.div_eq_of_lt (h t ht))
  rw [maskWord, hall, mask]
  exact List.foldl_ext _ _ _ fun m t ht => by rw [Nat.mod_eq_of_lt (h t ht)]

/-- `ceil(width / W)` is 1 for a width of one word (R82). -/
theorem maskWords_one_word {W width : Nat} (h1 : 1 ≤ width) (hW : width ≤ W) (taps : List Nat) :
    maskWords W width taps = [maskWord W taps 0] := by
  have hceil : (width + W - 1) / W = 1 := Nat.div_eq_of_lt_le (by omega) (by omega)
  rw [maskWords, hceil]
  rfl

/-! ## The outcomes of the builder -/

/-- R76: the width check comes first. -/
theorem build_of_W_lt {W width : Nat} (h : W < width) (taps : List Nat) :
    build W width taps = .error (.unsupportedWidth width) := if_pos h

theorem build_of_accepted {W width : Nat} {taps : List Nat} (h : Accepted W width taps) :
    build W width taps = .ok (mask W taps) := by
  cases hb : build W width taps with
  | error e => exact absurd h (not_accepted_of_build_error hb)
  | ok m => rw [(accepted_of_build_ok hb).2]

/-- R78: a tap out of range after taps in range is the one reported, whatever follows. -/
theorem build_first_bad_tap {W width t : Nat} {before : List Nat} (after : List Nat) (hW : width ≤ W)
    (hbefore : ∀ u ∈ before, 1 ≤ u ∧ u ≤ width) (ht : t < 1 ∨ width < t) :
    build W width (before ++ t :: after) = .error (.tapOutOfRange t width) := by
  have hskip : before.find? (tapBad width) = none :=
    List.find?_eq_none.2 fun u hu => by simp [(tapBad_eq_false_iff width u).2 (hbefore u hu)]
  have hbad : tapBad width t = true := by simpa [tapBad] using ht
  have hfind : (before ++ t :: after).find? (tapBad width) = some t := by
    rw [List.find?_append, hskip, Option.none_or, List.find?_cons_of_pos hbad]
  simp [build, Nat.not_lt.2 hW, hfind]

/-! ## What the commands answer for each outcome -/

/-- R96: on an error every constructor answers it and writes nothing; CONSTRUCT.GALOIS.FIB validates the taps as given
(R148). -/
theorem exec_constructor_of_build_error {s : State} {width : Nat} {taps : List Nat} {e : BuildError}
    (h : build s.params.W width taps = .error e) {mk : Nat → List Nat → Nat → Instr} (hmk : mk ∈ constructors)
    (seed : Nat) : exec (mk width taps seed) s = .next (s.complete s.regs (.error e)) := by
  have hconstruct (v : Variant) (x : Word s.params.W) :
      s.construct v width taps x = s.complete s.regs (.error e) := by
    rw [State.construct, h]
  simp only [constructors, List.mem_cons, List.not_mem_nil, or_false] at hmk
  obtain rfl | rfl | rfl | rfl | rfl := hmk
  case inr.inr.inr.inr => simp only [exec, execConstructGaloisFib, h]
  all_goals exact congrArg Host.Outcome.next (hconstruct _ _)

theorem exec_tapmask_of_build_error {s : State} {width : Nat} {taps : List Nat} {e : BuildError}
    (h : build s.params.W width taps = .error e) :
    exec (.tapmask width taps) s = .next (s.complete s.regs (.error e)) := by
  simp only [exec, execTapmask, h]

theorem exec_tapmask_of_build_ok {s : State} {width : Nat} {taps : List Nat} {m : Word s.params.W}
    (h : build s.params.W width taps = .ok m) :
    exec (.tapmask width taps) s = .next (s.complete s.regs (.word m)) := by
  simp only [exec, execTapmask, h]

/-! ## The obligations -/

/-- Settles O17: each bit, and the bound, from which taps occur; the order is not part of that. -/
theorem maskBitSetIffTapOccurs : Obligations.MaskBitSetIffTapOccurs := by
  unfold Obligations.MaskBitSetIffTapOccurs
  intro W taps htaps
  exact ⟨mask_getLsbD_iff_mem htaps, fun taps' hperm => mask_congr_mem fun t => hperm.symm.mem_iff,
    fun width hwidth => mask_toNat_lt htaps hwidth⟩

/-- Settles O18: an accepted width needs one word, and every accepted tap falls in it. -/
theorem multiWordPlacementIsOneWord : Obligations.MultiWordPlacementIsOneWord := by
  unfold Obligations.MultiWordPlacementIsOneWord
  rintro W width taps ⟨h1, hW, htaps⟩
  have hlt : ∀ t ∈ taps, t - 1 < W := fun t ht => by
    obtain ⟨ht1, htw⟩ := htaps t ht
    omega
  exact ⟨fun t ht => ⟨Nat.div_eq_of_lt (hlt t ht), Nat.mod_eq_of_lt (hlt t ht)⟩,
    by rw [maskWords_one_word h1 hW, maskWord_zero hlt]⟩

/-- Settles O20: the builder's first check, and the commands' one answer to a builder's error. -/
theorem widthBeyondTheWordRefused : Obligations.WidthBeyondTheWordRefused := by
  unfold Obligations.WidthBeyondTheWordRefused
  refine ⟨fun W width taps h => build_of_W_lt h taps,
    fun W taps hW htaps => build_of_accepted ⟨hW, le_rfl, htaps⟩, fun s width taps h => ?_⟩
  have hbuild : build s.params.W width taps = .error (.unsupportedWidth width) := build_of_W_lt h taps
  exact ⟨fun mk hmk seed => exec_constructor_of_build_error hbuild hmk seed, exec_tapmask_of_build_error hbuild⟩

/-- Settles O22: the boundary taps 0 and `width + 1` are first offenders of a one-element list, 1 and `width` are
accepted. -/
theorem firstOffendingTapReported : Obligations.FirstOffendingTapReported := by
  unfold Obligations.FirstOffendingTapReported
  refine ⟨fun W width t before after hW hbefore ht => build_first_bad_tap after hW hbefore ht,
    fun W width h1 hW => ?_⟩
  have hgood (t : Nat) (ht : 1 ≤ t ∧ t ≤ width) : build W width [t] = .ok (mask W [t]) :=
    build_of_accepted ⟨h1, hW, by simpa using ht⟩
  have hbad (t : Nat) (ht : t < 1 ∨ width < t) : build W width [t] = .error (.tapOutOfRange t width) :=
    build_first_bad_tap (before := []) [] hW (by simp) ht
  exact ⟨hgood 1 ⟨le_rfl, h1⟩, hgood width ⟨h1, le_rfl⟩, hbad 0 (.inl Nat.zero_lt_one),
    hbad (width + 1) (.inr (Nat.lt_succ_self width))⟩

/-- Settles O24: `exec` of TAPMASK is the builder's result, with no case on CFG. -/
theorem tapmaskReturnsTheMask : Obligations.TapmaskReturnsTheMask := by
  unfold Obligations.TapmaskReturnsTheMask
  refine ⟨fun W c hop => by simp [decode, hop], fun s width taps h => ?_, fun s width taps e h => ?_⟩
  · exact exec_tapmask_of_build_ok (build_of_accepted h)
  · exact exec_tapmask_of_build_error h

end Sys2Proof.Machine

/-! PROOFS. The register contract (R90 to R104): what each format-O command answers in either CFG, and what the five
constructors leave on accepted operands, whatever the registers held. -/

namespace Sys2Proof.Machine

/-! ## Format O in either CFG -/

/-- R91: without an instance no format-O command has a step. -/
theorem exec_unconfigured {i : Instr} (hi : i.format = .O) {s : State} (hs : s.regs = none) :
    exec i s = .refused .unconfigured := by
  cases i with
  | clock | multiclock | get | set | taps | width => exact State.requireConfigured_none hs _
  | constructNaive | constructCountones | constructPopcnt | constructGalois | constructGaloisFib | tapmask => cases hi

section Configured
variable {s : State} {r : Registers s.params.W} (hs : s.regs = some r)
include hs

theorem exec_clock_of_configured :
    exec .clock s = .next (s.complete (some (r.clocked s.params.hasPopcnt)) (.bit r.out)) :=
  State.requireConfigured_some hs _

theorem exec_get_of_configured : exec .get s = .next (s.complete (some r) (.word r.state)) :=
  State.requireConfigured_some hs _

theorem exec_set_of_configured (x : Nat) :
    exec (.set x) s = .next (s.complete (some { r with state := wordOperand s.params.W x }) .ok) :=
  State.requireConfigured_some hs _

theorem exec_taps_of_configured : exec .taps s = .next (s.complete (some r) (.list r.taps)) :=
  State.requireConfigured_some hs _

theorem exec_width_of_configured : exec .width s = .next (s.complete (some r) (.nat r.width)) :=
  State.requireConfigured_some hs _

end Configured

/-! ## The loop of MULTICLOCK (R98) -/

/-- The loop answers the output sequence and stops at the registers after `n` clocks. -/
theorem clockLoop_eq {W : Nat} (hw : Bool) (n : Nat) (r : Registers W) :
    clockLoop hw n r = ((List.range n).map (r.output hw), r.after hw n) := by
  induction n generalizing r with
  | zero => rfl
  | succ n ih =>
    rw [clockLoop, ih, List.range_succ_eq_map, List.map_cons, List.map_map]
    rfl

theorem exec_multiclock_of_configured {s : State} {r : Registers s.params.W} (hs : s.regs = some r) (n : Nat) :
    exec (.multiclock n) s = .next (s.complete (some (r.after s.params.hasPopcnt n))
      (.bits ((List.range n).map (r.output s.params.hasPopcnt)))) := by
  have hexec : exec (.multiclock n) s = .next (s.complete (some (clockLoop s.params.hasPopcnt n r).2)
    (.bits (clockLoop s.params.hasPopcnt n r).1)) := State.requireConfigured_some hs _
  rw [hexec, clockLoop_eq]

/-! ## Construction on accepted operands (R94) -/

theorem State.construct_of_accepted {s : State} {width : Nat} {taps : List Nat} (h : Accepted s.params.W width taps)
    (v : Variant) (seed : Word s.params.W) :
    s.construct v width taps seed = s.complete (some (built s.params.W v width taps seed)) .ok := by
  rw [State.construct, build_of_accepted h]
  rfl

/-- Mirroring keeps accepted operands accepted (R147). -/
theorem accepted_mirrorTaps {W width : Nat} {taps : List Nat} (h : Accepted W width taps) :
    Accepted W width (mirrorTaps width taps) := by
  obtain ⟨h1, hW, htaps⟩ := h
  refine ⟨h1, hW, List.forall_mem_map.2 fun t ht => ?_⟩
  obtain ⟨ht1, htw⟩ := htaps t ht
  unfold mirror
  omega

theorem exec_constructGaloisFib_of_accepted {s : State} {width : Nat} {taps : List Nat}
    (h : Accepted s.params.W width taps) (seed : Nat) :
    exec (.constructGaloisFib width taps seed) s =
      .next (s.complete (some (builtGaloisFib s.params.W width taps (wordOperand s.params.W seed))) .ok) := by
  simp only [exec, execConstructGaloisFib, build_of_accepted h]
  rw [State.construct_of_accepted (accepted_mirrorTaps h), builtGaloisFib]

/-- R96: on accepted operands a constructor leaves registers that do not depend on the old ones. -/
theorem exec_constructor_of_accepted {s : State} {width : Nat} {taps : List Nat}
    (h : Accepted s.params.W width taps) {mk : Nat → List Nat → Nat → Instr} (hmk : mk ∈ constructors) (seed : Nat) :
    ∃ r : Registers s.params.W, ∀ g : Option (Registers s.params.W),
      exec (mk width taps seed) { s with regs := g } = .next (s.complete (some r) .ok) := by
  have hconstruct (v : Variant) (g : Option (Registers s.params.W)) :
      State.construct { s with regs := g } v width taps (wordOperand s.params.W seed) =
        s.complete (some (built s.params.W v width taps (wordOperand s.params.W seed))) .ok :=
    State.construct_of_accepted (s := { s with regs := g }) h v _
  simp only [constructors, List.mem_cons, List.not_mem_nil, or_false] at hmk
  obtain rfl | rfl | rfl | rfl | rfl := hmk
  case inr.inr.inr.inr =>
    exact ⟨builtGaloisFib s.params.W width taps (wordOperand s.params.W seed),
      fun g => exec_constructGaloisFib_of_accepted (s := { s with regs := g }) h seed⟩
  all_goals exact ⟨_, fun g => congrArg Host.Outcome.next (hconstruct _ g)⟩

/-- The format-C commands are the five constructors with their operands (R58). -/
theorem exists_constructor_of_format_C {i : Instr} (hi : i.format = .C) :
    ∃ mk ∈ constructors, ∃ width taps seed, i = mk width taps seed := by
  cases i with
  | constructNaive width taps seed | constructCountones width taps seed | constructPopcnt width taps seed
  | constructGalois width taps seed | constructGaloisFib width taps seed =>
    exact ⟨_, by simp [constructors], width, taps, seed, rfl⟩
  | clock | multiclock | get | set | taps | width | tapmask => cases hi

/-! ## The obligations -/

/-- Settles O30: the builder reads operands only, and each of its outcomes fixes the constructor's answer whatever the
registers hold. -/
theorem constructReplacesOrLeavesTheInstance : Obligations.ConstructReplacesOrLeavesTheInstance := by
  unfold Obligations.ConstructReplacesOrLeavesTheInstance
  intro i s hi
  obtain ⟨mk, hmk, width, taps, seed, rfl⟩ := exists_constructor_of_format_C hi
  cases hbuild : build s.params.W width taps with
  | ok m =>
    obtain ⟨haccepted, -⟩ := accepted_of_build_ok hbuild
    exact .inl (exec_constructor_of_accepted haccepted hmk seed)
  | error e =>
    exact .inr ⟨e, fun g => exec_constructor_of_build_error (s := { s with regs := g }) hbuild hmk seed⟩

/-- Settles O34: `clockLoop` is the output sequence with the registers after it. -/
theorem multiclockReturnsTheOutputBits : Obligations.MulticlockReturnsTheOutputBits := by
  unfold Obligations.MulticlockReturnsTheOutputBits
  exact ⟨fun W c hop => by simp [decode, hop], fun s r n hs => exec_multiclock_of_configured hs n,
    fun s r hs => exec_multiclock_of_configured hs 0, fun s n hs => exec_unconfigured rfl hs⟩

/-- Settles O25: the four arms are the common body of construction with their own tag. -/
theorem constructorsInstallTheInstance : Obligations.ConstructorsInstallTheInstance := by
  unfold Obligations.ConstructorsInstallTheInstance
  refine ⟨fun W c => ?_, fun s width taps seed h => ?_, fun s width taps seed e h => ?_⟩
  · refine ⟨?_, ?_, ?_, ?_⟩ <;> exact fun hop => by simp [decode, hop]
  · have hconstruct (v : Variant) :
        Host.Outcome.next (s.construct v width taps (wordOperand s.params.W seed.toNat)) =
          (.next (s.complete (some (built s.params.W v width taps seed)) .ok) : Host.Outcome State Fault Refusal) := by
      rw [wordOperand_toNat, State.construct_of_accepted h]
    exact ⟨hconstruct .naive, hconstruct .countones, hconstruct .popcnt, hconstruct .galois⟩
  · have hraise (mk : Nat → List Nat → Nat → Instr) (hmk : mk ∈ constructors) :
        exec (mk width taps seed) s = .next (s.complete s.regs (.error e)) :=
      exec_constructor_of_build_error h hmk seed
    exact ⟨hraise .constructNaive (by simp [constructors]), hraise .constructCountones (by simp [constructors]),
      hraise .constructPopcnt (by simp [constructors]), hraise .constructGalois (by simp [constructors])⟩

/-- Settles O31: the six commands run under the same check of CFG. -/
theorem operateNeedsAnInstance : Obligations.OperateNeedsAnInstance := by
  unfold Obligations.OperateNeedsAnInstance
  exact fun i s hi hs => exec_unconfigured hi hs

/-- Settles O32: each of the six answers its own kind of response, none of them an error. -/
theorem configuredEngineNeverFails : Obligations.ConfiguredEngineNeverFails := by
  unfold Obligations.ConfiguredEngineNeverFails
  intro i s r hi hs
  cases i with
  | clock => exact ⟨_, _, exec_clock_of_configured hs, rfl⟩
  | multiclock n => exact ⟨_, _, exec_multiclock_of_configured hs n, rfl⟩
  | get => exact ⟨_, _, exec_get_of_configured hs, rfl⟩
  | set x => exact ⟨_, _, exec_set_of_configured hs x, rfl⟩
  | taps => exact ⟨_, _, exec_taps_of_configured hs, rfl⟩
  | width => exact ⟨_, _, exec_width_of_configured hs, rfl⟩
  | constructNaive | constructCountones | constructPopcnt | constructGalois | constructGaloisFib | tapmask => cases hi

/-- Settles O33: one clock is `nextWord`, whose dispatch on the variant is that of R93. -/
theorem clockReturnsBitZeroAndSteps : Obligations.ClockReturnsBitZeroAndSteps := by
  unfold Obligations.ClockReturnsBitZeroAndSteps
  refine ⟨fun W c hop => by simp [decode, hop], fun s r hs => ?_, fun s hs => exec_unconfigured rfl hs⟩
  obtain ⟨v, width, taps, m, x⟩ := r
  cases v with
  | naive | countones | popcnt | galois => exact exec_clock_of_configured hs

/-- Settles O37: the three commands put back the registers they read; the bounds on WIDTH are the invariant's, and
CONSTRUCT.GALOIS.FIB stores the mirrored list. -/
theorem getTapsWidthReadTheRegisters : Obligations.GetTapsWidthReadTheRegisters := by
  unfold Obligations.GetTapsWidthReadTheRegisters
  refine ⟨fun W c => ?_, fun s r hs => ?_, fun s width taps seed h => ?_, fun s hs => ?_⟩
  · refine ⟨?_, ?_, ?_⟩ <;> exact fun hop => by simp [decode, hop]
  · rw [hs]
    refine ⟨exec_get_of_configured hs, exec_taps_of_configured hs, exec_width_of_configured hs, fun hinv => ?_⟩
    obtain ⟨⟨h1, hW, -⟩, -⟩ := hinv r hs
    exact ⟨h1, hW⟩
  · exact ⟨_, exec_constructGaloisFib_of_accepted h seed, exec_taps_of_configured rfl⟩
  · exact ⟨exec_unconfigured rfl hs, exec_unconfigured rfl hs, exec_unconfigured rfl hs⟩

/-- Settles O38: the operand is the word presented (R64), and GET reads the register SET wrote. -/
theorem setWritesTheWholeState : Obligations.SetWritesTheWholeState := by
  unfold Obligations.SetWritesTheWholeState
  refine ⟨fun W c hop => by simp [decode, hop], fun s r x hs => ⟨?_, exec_get_of_configured rfl⟩,
    fun s x hs => exec_unconfigured rfl hs⟩
  rw [exec_set_of_configured hs, wordOperand_toNat]

end Sys2Proof.Machine

/-! PROOFS. The fold feedback of NAIVE and the Fibonacci step (R111, R112): what the fold counts and which bits it reads,
each bit of the step, and CLOCK on the three variants that make it. -/

namespace Sys2Proof.Machine

/-! ## The fold feedback (R111) -/

theorem fbFold_eq_countP {W : Nat} (taps : List Nat) (s : Word W) :
    fbFold taps s = ((taps.countP fun t => s.getLsbD (t - 1)) % 2 == 1) :=
  xorOver_eq_countP taps _

theorem fbFold_perm {W : Nat} {taps taps' : List Nat} (h : taps.Perm taps') (s : Word W) :
    fbFold taps s = fbFold taps' s :=
  xorOver_perm h _

/-- Only the bits that the taps name are read. -/
theorem fbFold_congr {W : Nat} {taps : List Nat} {s s' : Word W}
    (h : ∀ t ∈ taps, s'.getLsbD (t - 1) = s.getLsbD (t - 1)) : fbFold taps s' = fbFold taps s :=
  xorOver_congr h

/-- Settles O40: the fold is the exclusive-or over the list, which counts modulo 2; a tap `t` with `1 ≤ t ≤ width` names
the bit `t - 1 < width`. -/
theorem foldFeedbackCountsEveryTap : Obligations.FoldFeedbackCountsEveryTap := by
  unfold Obligations.FoldFeedbackCountsEveryTap
  refine fun W taps s => ⟨?_, xorOver_nil _, fun taps' h => (fbFold_perm h s).symm, fun width s' htaps hbits => ?_⟩
  · rw [fbFold_eq_countP, beq_iff_eq]
  · refine fbFold_congr fun t ht => hbits (t - 1) ?_
    obtain ⟨h1, hw⟩ := htaps t ht
    omega

/-! ## The Fibonacci step (R112) -/

/-- The feedback enters at `width - 1` only. -/
theorem fibStep_getLsbD_of_ne {W width i : Nat} (h : i ≠ width - 1) (fb : Bool) (s : Word W) :
    (fibStep width fb s).getLsbD i = s.getLsbD (i + 1) := by
  simp [fibStep_getLsbD, h]

theorem fibStep_getLsbD_feedback {W width : Nat} (h1 : 1 ≤ width) (hW : width ≤ W) (fb : Bool) (s : Word W) :
    (fibStep width fb s).getLsbD (width - 1) = (fb || s.getLsbD width) := by
  have hlt : width - 1 < W := by omega
  rw [fibStep_getLsbD, Nat.sub_add_cancel h1]
  simp [hlt, Bool.or_comm]

/-- The three variants other than GALOIS step by `fib_step`, each with its own feedback. -/
theorem Registers.exists_clocked_eq_fibStep {W : Nat} (hw : Bool) {r : Registers W} (h : r.variant ≠ .galois) :
    ∃ fb : Bool, r.clocked hw = { r with state := fibStep r.width fb r.state } := by
  obtain ⟨v, width, taps, m, x⟩ := r
  cases v with
  | naive => exact ⟨fbFold taps x, rfl⟩
  | countones => exact ⟨fbParity m x, rfl⟩
  | popcnt => exact ⟨fbPopcnt hw m x, rfl⟩
  | galois => exact absurd rfl h

/-- Settles O41: the shift on every bit but `width - 1`; what it brings in at `W - 1` is the bit `W` of a `W`-bit word. -/
theorem fibonacciStepBitByBit : Obligations.FibonacciStepBitByBit := by
  unfold Obligations.FibonacciStepBitByBit
  refine ⟨fun s r hs hv => ?_, fun W width fb s h1 hW => ⟨fun i _ hi => ?_, fun _ => ?_, fun heq => ?_, fun hlt => ?_⟩⟩
  · obtain ⟨fb, hfb⟩ := Registers.exists_clocked_eq_fibStep s.params.hasPopcnt hv
    exact ⟨fb, hfb ▸ exec_clock_of_configured hs⟩
  · exact fibStep_getLsbD_of_ne (by omega) fb s
  · exact fibStep_getLsbD_feedback h1 hW fb s
  · subst heq
    rw [fibStep_getLsbD_feedback h1 hW, BitVec.getLsbD_of_ge s width le_rfl, Bool.or_false]
  · rw [fibStep_getLsbD_of_ne (by omega)]
    exact BitVec.getLsbD_of_ge s _ (by omega)

end Sys2Proof.Machine

/-! PROOFS. The parity feedback of COUNTONES (R121): what it counts, and CLOCK on the variant that steps with it. -/

namespace Sys2Proof.Machine

theorem fbParity_eq_countP {W : Nat} (m s : Word W) :
    fbParity m s = ((List.range W).countP (fun i => s.getLsbD i && m.getLsbD i) % 2 == 1) := by
  rw [fbParity_eq_xorOver, xorOver_eq_countP]

theorem Registers.clocked_of_countones {W : Nat} (hw : Bool) {r : Registers W} (h : r.variant = .countones) :
    r.clocked hw = { r with state := fibStep r.width (fbParity r.tapmask r.state) r.state } := by
  rw [Registers.clocked, h, nextWord]

/-- Settles O42: bit `i` of `s & tapmask` is the conjunction of the two bits, and the dispatch hands COUNTONES the mask
without the list. -/
theorem parityFeedbackIsXorOfMaskedBits : Obligations.ParityFeedbackIsXorOfMaskedBits := by
  unfold Obligations.ParityFeedbackIsXorOfMaskedBits
  refine ⟨fun s r hs hv => ?_, fun W m s => ⟨fbParity_eq_xorOver m s, ?_, fun _ _ _ => rfl⟩⟩
  · rw [← Registers.clocked_of_countones s.params.hasPopcnt hv]
    exact exec_clock_of_configured hs
  · rw [fbParity_eq_countP, beq_iff_eq]

end Sys2Proof.Machine

/-! PROOFS. The Galois family (R140 to R148): CONSTRUCT.GALOIS.FIB against the direct constructor, each bit of the Galois
step, and CLOCK on a GALOIS instance. -/

namespace Sys2Proof.Machine

/-! ## Construction with mirrored taps (R145, R146, R148) -/

/-- The builder raises on every operand that is not accepted. -/
theorem exists_build_error_of_not_accepted {W width : Nat} {taps : List Nat} (h : ¬ Accepted W width taps) :
    ∃ e : BuildError, build W width taps = .error e := by
  cases hb : build W width taps with
  | error e => exact ⟨e, rfl⟩
  | ok m =>
    obtain ⟨haccepted, -⟩ := accepted_of_build_ok hb
    exact absurd haccepted h

/-- R146: with the taps validated as given, what is left is the direct constructor at the mirrored list. -/
theorem exec_constructGaloisFib_eq_constructGalois {s : State} {width : Nat} {taps : List Nat}
    (h : Accepted s.params.W width taps) (seed : Nat) :
    exec (.constructGaloisFib width taps seed) s = exec (.constructGalois width (mirrorTaps width taps) seed) s := by
  simp only [exec, execConstructGaloisFib, build_of_accepted h, execConstructGalois]

theorem exec_constructGaloisFib_of_build_error {s : State} {width : Nat} {taps : List Nat} {e : BuildError}
    (h : build s.params.W width taps = .error e) (seed : Nat) :
    exec (.constructGaloisFib width taps seed) s = .next (s.complete s.regs (.error e)) :=
  exec_constructor_of_build_error h (by simp [constructors]) seed

/-- Settles O26: the seed operand is the word presented (R64), and the list stored is `mirrorTaps`, `width - t + 1` for
each tap. -/
theorem galoisFibConstructorMirrorsTheTaps : Obligations.GaloisFibConstructorMirrorsTheTaps := by
  unfold Obligations.GaloisFibConstructorMirrorsTheTaps
  refine ⟨fun W c hop => by simp [decode, hop], fun s width taps seed h => ?_,
    fun s width taps seed e h => exec_constructGaloisFib_of_build_error h seed⟩
  rw [exec_constructGaloisFib_of_accepted h, wordOperand_toNat]
  rfl

/-- Settles O27: TAPS reads the list that the direct constructor stored. -/
theorem galoisFibEqualsDirectWithMirroredTaps : Obligations.GaloisFibEqualsDirectWithMirroredTaps := by
  unfold Obligations.GaloisFibEqualsDirectWithMirroredTaps
  exact fun s width taps seed h => ⟨exec_constructGaloisFib_eq_constructGalois h seed,
    _, exec_constructGaloisFib_of_accepted h seed, exec_taps_of_configured rfl⟩

/-- Settles O28: the builder sees the caller's list, so its first offender and its errors are those of the direct
constructor. -/
theorem galoisFibReportsTheCallersTap : Obligations.GaloisFibReportsTheCallersTap := by
  unfold Obligations.GaloisFibReportsTheCallersTap
  refine ⟨fun s width t seed before after hW hbefore ht =>
    exec_constructGaloisFib_of_build_error (build_first_bad_tap after hW hbefore ht) seed,
    fun s width seed taps h => ?_⟩
  obtain ⟨e, he⟩ := exists_build_error_of_not_accepted h
  exact ⟨e, he, exec_constructGaloisFib_of_build_error he seed,
    exec_constructor_of_build_error he (mk := .constructGalois) (by simp [constructors]) seed⟩

/-! ## The Galois step (R141) -/

/-- The top bit has no bit above it to take in. -/
theorem galStep_getLsbD_top {W : Nat} (h1 : 1 ≤ W) (m s : Word W) :
    (galStep m s).getLsbD (W - 1) = (s.getLsbD 0 && m.getLsbD (W - 1)) := by
  rw [galStep_getLsbD, Nat.sub_add_cancel h1, BitVec.getLsbD_of_ge s W le_rfl, Bool.false_xor]

theorem Registers.clocked_of_galois {W : Nat} (hw : Bool) {r : Registers W} (h : r.variant = .galois) :
    r.clocked hw = { r with state := galStep r.tapmask r.state } := by
  rw [Registers.clocked, h, nextWord]

/-- Settles O47: each bit of the shift and of the masked exclusive-or, and the dispatch hands GALOIS the mask and the word
alone. -/
theorem galoisStepBitByBit : Obligations.GaloisStepBitByBit := by
  unfold Obligations.GaloisStepBitByBit
  refine ⟨fun s r hs hv => ?_, fun W m s h1 => ⟨fun i _ => galStep_getLsbD m s i, galStep_getLsbD_top h1 m s,
    fun _ _ _ => rfl⟩⟩
  rw [← Registers.clocked_of_galois s.params.hasPopcnt hv]
  exact exec_clock_of_configured hs

end Sys2Proof.Machine

/-! PROOFS. What an error leaves (R185): a command that answers one met an error of the builder, and writes no register. -/

namespace Sys2Proof.Machine

/-- Registers and response can be read off a command's outcome. -/
theorem regs_and_response_of_exec_next {i : Instr} {s : State} {g g' : Option (Registers s.params.W)}
    {resp resp' : Response s.params.W} (h : exec i s = .next (s.complete g resp))
    (h' : exec i s = .next (s.complete g' resp')) : g = g' ∧ resp = resp' :=
  State.complete_inj.1 (Host.Outcome.next.inj (h.symm.trans h'))

/-- TAPMASK is the one format-B command (R58). -/
theorem exists_tapmask_of_format_B {i : Instr} (hi : i.format = .B) : ∃ width taps, i = .tapmask width taps := by
  cases i with
  | tapmask width taps => exact ⟨width, taps, rfl⟩
  | clock | multiclock | get | set | taps | width | constructNaive | constructCountones | constructPopcnt
  | constructGalois | constructGaloisFib => cases hi

/-- A command that answers an error has the registers as they were: a constructor or TAPMASK raises the builder's error,
or succeeds and answers none, and a format-O command never answers one (R97). -/
theorem regs_of_exec_error {i : Instr} {s : State} {g : Option (Registers s.params.W)} {e : BuildError}
    (h : exec i s = .next (s.complete g (.error e))) : g = s.regs := by
  cases hi : i.format with
  | C =>
    obtain ⟨mk, hmk, width, taps, seed, rfl⟩ := exists_constructor_of_format_C hi
    cases hbuild : build s.params.W width taps with
    | error e' =>
      obtain ⟨hregs, -⟩ := regs_and_response_of_exec_next h (exec_constructor_of_build_error hbuild hmk seed)
      exact hregs
    | ok m =>
      obtain ⟨haccepted, -⟩ := accepted_of_build_ok hbuild
      obtain ⟨r, hr⟩ := exec_constructor_of_accepted haccepted hmk seed
      obtain ⟨-, hresp⟩ := regs_and_response_of_exec_next h (hr s.regs)
      cases hresp
  | B =>
    obtain ⟨width, taps, rfl⟩ := exists_tapmask_of_format_B hi
    cases hbuild : build s.params.W width taps with
    | error e' =>
      obtain ⟨hregs, -⟩ := regs_and_response_of_exec_next h (exec_tapmask_of_build_error hbuild)
      exact hregs
    | ok m =>
      obtain ⟨-, hresp⟩ := regs_and_response_of_exec_next h (exec_tapmask_of_build_ok hbuild)
      cases hresp
  | O =>
    obtain ⟨-, hs⟩ | ⟨g', resp, hs, hok⟩ := exec_operate hi s
    · cases hs.symm.trans h
    · obtain ⟨-, rfl⟩ := regs_and_response_of_exec_next h hs
      obtain ⟨hne, -, -⟩ := Response.status_eq_iff (.error e : Response s.params.W)
      exact absurd rfl (hne.1 hok e)

/-- Settles O29: the six commands that run the builder pass its error on, and no other outcome of a command is an
error. -/
theorem anErrorWritesNoRegister : Obligations.AnErrorWritesNoRegister := by
  unfold Obligations.AnErrorWritesNoRegister
  exact ⟨fun s width taps e h => ⟨fun mk hmk seed => exec_constructor_of_build_error h hmk seed,
    exec_tapmask_of_build_error h⟩, fun i s g e h => regs_of_exec_error h⟩

end Sys2Proof.Machine

/-! PROOFS. Power-on and the reset event (R33, R200). -/

namespace Sys2Proof.Machine

/-- R200: a step that takes a reset event is never refused, and all it does is reset the engine. -/
theorem step_reset {s : State} {rest : List (HostEvent s.params.W)} (hs : s.inputs = .reset :: rest) :
    step s = .next (s.withInputs rest).resetEngine := by
  simp only [step, hs]

/-- Settles O10: power-on and the reset event leave no registers, CFG says just that, and without registers every
format-O command stops at its check of CFG (R91). -/
theorem resetLeavesNoInstance : Obligations.ResetLeavesNoInstance := by
  unfold Obligations.ResetLeavesNoInstance
  refine ⟨fun c => ?_, fun s rest hs => ?_⟩
  · have hregs := State.resetWith_regs c
    exact ⟨(State.cfg_unconfigured_iff _).2 hregs, hregs⟩
  · have hregs := State.resetEngine_regs (s.withInputs rest)
    have hparams : (s.withInputs rest).resetEngine.params = s.params := by simp
    exact ⟨_, step_reset hs, (State.cfg_unconfigured_iff _).2 hregs, hregs, hparams,
      fun i hi => exec_unconfigured hi hregs⟩

end Sys2Proof.Machine

/-! PROOFS. The opcode map both ways (R58, R59, R64): `decode` and `encode` are inverse to each other on well-formed
instructions and on records without unused fields, and what decodes has its record's opcode. -/

namespace Sys2Proof

/-- A word operand that fits in the word survives being presented as one (R64). -/
theorem toNat_ofNat_of_decide {W x : Nat} (h : decide (x < 2 ^ W) = true) : (BitVec.ofNat W x).toNat = x :=
  (BitVec.toNat_ofNat x W).trans (Nat.mod_eq_of_lt (of_decide_eq_true h))

theorem decode_encode {W : Nat} {i : Instr} (h : i.wellFormed W = true) : decode (encode W i) = .ok i := by
  cases i with
  | constructNaive _ _ x | constructCountones _ _ x | constructPopcnt _ _ x | constructGalois _ _ x
  | constructGaloisFib _ _ x | set x =>
    have hx : (BitVec.ofNat W x).toNat = x := toNat_ofNat_of_decide h
    simp [decode, encode, hx]
  | clock | multiclock | get | taps | width | tapmask => rfl

theorem encode_op (W : Nat) (i : Instr) : (encode W i).op = i.opcode := by
  cases i with
  | constructNaive | constructCountones | constructPopcnt | constructGalois | constructGaloisFib | clock | multiclock
  | get | set | taps | width | tapmask => rfl

/-- The word operand of a record is `W` bits by type, so what is decoded is well formed (R64). -/
theorem wellFormed_of_decode {W : Nat} {c : Command W} {i : Instr} (h : decode c = .ok i) : i.wellFormed W = true := by
  unfold decode at h
  split at h
  case h_13 => cases h
  all_goals
    cases h
    simp [Instr.wellFormed, c.aWord.isLt]

/-- What is decoded has the opcode of its record and the fields its opcode uses. -/
theorem encode_of_decode {W : Nat} {c : Command W} {i : Instr} (h : decode c = .ok i) : encode W i = c.normalise := by
  unfold decode at h
  split at h
  case h_13 => cases h
  all_goals
    rename_i hop
    cases h
    have hbits : c.op = BitVec.ofNat 8 c.op.toNat := by simp
    rw [hop] at hbits
    simp [encode, Command.normalise, operandUse, hbits]

/-- Settles O2: the opcodes are distinct, and a well-formed word operand is not cut by its field. -/
theorem decodeOfEncodeIsTheInstruction : Obligations.DecodeOfEncodeIsTheInstruction := by
  unfold Obligations.DecodeOfEncodeIsTheInstruction
  exact fun W i h => decode_encode h

/-- Settles O3: row by row of the opcode map, `operandUse` names the fields that the decoder reads. -/
theorem encodeOfDecodeIsTheRecord : Obligations.EncodeOfDecodeIsTheRecord := by
  unfold Obligations.EncodeOfDecodeIsTheRecord
  exact fun W c i h => ⟨encode_of_decode h, wellFormed_of_decode h⟩

/-- Settles O1: the twelve rows of the decoder; and the opcode of what is decoded is the record's, whose group is that
of the format (R59). -/
theorem opcodeMapDecodes : Obligations.OpcodeMapDecodes := by
  unfold Obligations.OpcodeMapDecodes
  refine ⟨fun W c => ?_, fun W c i h => ?_⟩
  · refine ⟨?_, ?_, ?_, ?_, ?_, ?_, ?_, ?_, ?_, ?_, ?_, ?_⟩ <;> exact fun hop => by simp [decode, hop]
  · have hop : i.opcode = c.op := by rw [← encode_op W, encode_of_decode h, Command.normalise_op]
    exact ⟨hop, hop ▸ Laws.OpcodeGroup.ofInstr i⟩

end Sys2Proof

/-! PROOFS. What a command can leave (R20, R27, R34, R94): said once for `exec`, with the invariant, the frame and the
life of an instance read off it; and what the five constructors have in common. -/

namespace Sys2Proof.Machine

/-! ## The five constructors on accepted operands -/

/-- R94, R145: on accepted operands a constructor installs its variant with the taps as given or mirrored, whatever the
seed and the state are. -/
theorem exec_constructor_installs {c : Config} {width : Nat} {taps : List Nat} (h : Accepted c.W width taps)
    {mk : Nat → List Nat → Nat → Instr} (hmk : mk ∈ constructors) :
    ∃ (v : Variant) (taps' : List Nat), Accepted c.W width taps' ∧
      ∀ (seed : Nat) (regs : Option (Registers c.W)) (ins : List (HostEvent c.W)) (rs : List (Response c.W)),
        exec (mk width taps seed) { params := c, regs := regs, inputs := ins, responses := rs } =
          .next { params := c, regs := some (built c.W v width taps' (wordOperand c.W seed)), inputs := ins,
                  responses := rs ++ [.ok] } := by
  simp only [constructors, List.mem_cons, List.not_mem_nil, or_false] at hmk
  obtain rfl | rfl | rfl | rfl | rfl := hmk
  case inr.inr.inr.inr =>
    exact ⟨.galois, mirrorTaps width taps, accepted_mirrorTaps h,
      fun seed regs ins rs => exec_constructGaloisFib_of_accepted (s := ⟨c, regs, ins, rs⟩) h seed⟩
  all_goals
    exact ⟨_, taps, h, fun seed regs ins rs =>
      congrArg Host.Outcome.next (State.construct_of_accepted (s := ⟨c, regs, ins, rs⟩) h _ (wordOperand c.W seed))⟩

/-! ## Everything a command can leave -/

/-- The next states a command `i` can have from `s`: a constructor installs an instance it has accepted; a format-O
command of a configured engine writes STATE at most; and every other answer leaves the registers. -/
inductive CommandEffect (i : Instr) (s : State) : State → Prop
  | installed (hi : i.format = .C) (v : Variant) (width : Nat) (taps : List Nat) (seed : Word s.params.W)
      (haccepted : Accepted s.params.W width taps) :
      CommandEffect i s (s.complete (some (built s.params.W v width taps seed)) .ok)
  | operated (r : Registers s.params.W) (hs : s.regs = some r) (x : Word s.params.W) (resp : Response s.params.W) :
      CommandEffect i s (s.complete (some { r with state := x }) resp)
  | kept (resp : Response s.params.W) : CommandEffect i s (s.complete s.regs resp)

/-- Clocking leaves the configuration, so the registers after it are the old ones with another STATE. -/
theorem Registers.after_eq_with_state {W : Nat} (hw : Bool) (n : Nat) (r : Registers W) :
    r.after hw n = { r with state := (r.after hw n).state } := by
  obtain ⟨hv, hwidth, htaps, hmask⟩ := Registers.after_configuration hw n r
  rw [← hv, ← hwidth, ← htaps, ← hmask]

/-- R97, R108: what a configured engine answers to a format-O command and writes to STATE does not depend on the ports. -/
theorem exec_operate_configured {i : Instr} (hi : i.format = .O) (c : Config) (r : Registers c.W) :
    ∃ (x : Word c.W) (resp : Response c.W), ∀ ins rs,
      exec i { params := c, regs := some r, inputs := ins, responses := rs } =
        .next { params := c, regs := some { r with state := x }, inputs := ins, responses := rs ++ [resp] } := by
  cases i with
  | clock =>
    exact ⟨(r.clocked c.hasPopcnt).state, .bit r.out,
      fun ins rs => exec_clock_of_configured (s := ⟨c, some r, ins, rs⟩) rfl⟩
  | multiclock n =>
    refine ⟨(r.after c.hasPopcnt n).state, .bits ((List.range n).map (r.output c.hasPopcnt)), fun ins rs => ?_⟩
    rw [← Registers.after_eq_with_state c.hasPopcnt n r]
    exact exec_multiclock_of_configured (s := ⟨c, some r, ins, rs⟩) rfl n
  | get => exact ⟨r.state, .word r.state, fun ins rs => exec_get_of_configured (s := ⟨c, some r, ins, rs⟩) rfl⟩
  | set x => exact ⟨wordOperand c.W x, .ok, fun ins rs => exec_set_of_configured (s := ⟨c, some r, ins, rs⟩) rfl x⟩
  | taps => exact ⟨r.state, .list r.taps, fun ins rs => exec_taps_of_configured (s := ⟨c, some r, ins, rs⟩) rfl⟩
  | width => exact ⟨r.state, .nat r.width, fun ins rs => exec_width_of_configured (s := ⟨c, some r, ins, rs⟩) rfl⟩
  | constructNaive | constructCountones | constructPopcnt | constructGalois | constructGaloisFib | tapmask => cases hi

theorem commandEffect_of_format_O {i : Instr} {s t : State} (hi : i.format = .O) (h : exec i s = .next t) :
    CommandEffect i s t := by
  obtain ⟨c, regs, ins, rs⟩ := s
  cases regs with
  | none => cases (exec_unconfigured hi rfl).symm.trans h
  | some r =>
    obtain ⟨x, resp, hexec⟩ := exec_operate_configured hi c r
    cases (hexec ins rs).symm.trans h
    exact .operated (s := ⟨c, some r, ins, rs⟩) r rfl x resp

theorem commandEffect_of_exec {i : Instr} {s t : State} (h : exec i s = .next t) : CommandEffect i s t := by
  cases hi : i.format with
  | O => exact commandEffect_of_format_O hi h
  | C =>
    obtain ⟨mk, hmk, width, taps, seed, rfl⟩ := exists_constructor_of_format_C hi
    cases hbuild : build s.params.W width taps with
    | error e => cases (exec_constructor_of_build_error hbuild hmk seed).symm.trans h; exact .kept _
    | ok m =>
      obtain ⟨haccepted, -⟩ := accepted_of_build_ok hbuild
      obtain ⟨v, taps', haccepted', hexec⟩ := exec_constructor_installs haccepted hmk
      cases (hexec seed s.regs s.inputs s.responses).symm.trans h
      exact .installed hi v width taps' _ haccepted'
  | B =>
    obtain ⟨width, taps, rfl⟩ := exists_tapmask_of_format_B hi
    cases hbuild : build s.params.W width taps with
    | error e => cases (exec_tapmask_of_build_error hbuild).symm.trans h; exact .kept _
    | ok m => cases (exec_tapmask_of_build_ok hbuild).symm.trans h; exact .kept _

theorem CommandEffect.params_eq {i : Instr} {s t : State} (h : CommandEffect i s t) : t.params = s.params := by
  cases h with
  | installed | operated | kept => rfl

/-! ## The invariant (R27) -/

theorem built_valid {W width : Nat} {taps : List Nat} (h : Accepted W width taps) (v : Variant) (seed : Word W) :
    (built W v width taps seed).Valid := ⟨h, rfl⟩

theorem State.inv_of_unconfigured {s : State} (h : s.regs = none) : s.Inv := by
  intro r hr
  cases h.symm.trans hr

/-- R27 speaks of the configuration, which a constructor has just validated and no other command writes. -/
theorem CommandEffect.keeps_inv {i : Instr} {s t : State} (h : CommandEffect i s t) (hs : s.Inv) : t.Inv := by
  cases h with
  | installed hi v width taps seed haccepted =>
    intro r hr
    cases hr
    exact built_valid haccepted v seed
  | operated r hr x resp =>
    have hvalid : r.Valid := hs r hr
    intro r' hr'
    cases hr'
    exact hvalid
  | kept resp => exact hs

theorem step_keeps_inv {s t : State} (hs : s.Inv) (h : step s = .next t) : t.Inv := by
  obtain ⟨-, rfl⟩ | ⟨rest, -, rfl⟩ | ⟨c, rest, i, -, -, hexec⟩ := step_cases h
  · exact hs
  · exact State.inv_of_unconfigured rfl
  · exact (commandEffect_of_exec hexec).keeps_inv hs

/-- Settles O13: a step is a command, which keeps R27, or it leaves no registers or the old ones. -/
theorem engineInvariantKeptByEveryStep : Obligations.EngineInvariantKeptByEveryStep := by
  unfold Obligations.EngineInvariantKeptByEveryStep
  exact fun s t hs h => step_keeps_inv hs h

/-- Settles O12: after power-on there are no registers to speak of (R33). -/
theorem engineInvariantAtReset : Obligations.EngineInvariantAtReset := by
  unfold Obligations.EngineInvariantAtReset
  exact ⟨State.inv_of_unconfigured rfl, fun c => State.inv_of_unconfigured (State.resetWith_regs c)⟩

/-- Settles O21: the first tap is above a width of 0, and no tap leaves the width itself to blame; the width of a
configured engine is that of R27. -/
theorem widthZeroRefused : Obligations.WidthZeroRefused := by
  unfold Obligations.WidthZeroRefused
  refine fun W => ⟨fun t taps => ?_, by simp [build], fun s t i hs h r hr => ?_⟩
  · exact build_first_bad_tap (before := []) taps (Nat.zero_le W) (by simp) (by omega)
  · obtain ⟨⟨h1, -, -⟩, -⟩ := (commandEffect_of_exec h).keeps_inv hs r hr
    exact Nat.one_le_iff_ne_zero.1 h1

/-- Settles O19: the two directions are the two lemmas about the builder's success. -/
theorem buildSucceedsIffAccepted : Obligations.BuildSucceedsIffAccepted := by
  unfold Obligations.BuildSucceedsIffAccepted
  refine fun W width taps m => ⟨accepted_of_build_ok, ?_⟩
  rintro ⟨haccepted, rfl⟩
  exact build_of_accepted haccepted

/-! ## Frames and the life of an instance (R21, R34, R55) -/

/-- Settles O9: each effect of a command is a completion of the state before. -/
theorem oneResponsePerCommand : Obligations.OneResponsePerCommand := by
  unfold Obligations.OneResponsePerCommand
  intro i s t h
  cases commandEffect_of_exec h with
  | installed | operated | kept => exact ⟨_, _, rfl⟩

/-- Settles O15: each effect of a command, and a reset, leave the parameters. -/
theorem parametersNeverChange : Obligations.ParametersNeverChange := by
  unfold Obligations.ParametersNeverChange
  intro s t h
  obtain ⟨-, rfl⟩ | ⟨rest, -, rfl⟩ | ⟨c, rest, i, -, -, hexec⟩ := step_cases h
  · rfl
  · rfl
  · exact (commandEffect_of_exec hexec).params_eq

/-- Settles O14: without a constructor the effect is on STATE alone. -/
theorem onlyConstructWritesTheConfiguration : Obligations.OnlyConstructWritesTheConfiguration := by
  unfold Obligations.OnlyConstructWritesTheConfiguration
  intro i s t hi h
  cases commandEffect_of_exec h with
  | installed hC => exact absurd hC hi
  | operated r hs x resp => exact .inr ⟨r, x, resp, hs, rfl⟩
  | kept resp =>
    cases hs : s.regs with
    | none => exact .inl ⟨rfl, resp, rfl⟩
    | some r => exact .inr ⟨r, r.state, resp, rfl, rfl⟩

/-- CFG says only whether there are registers (R33). -/
theorem State.cfg_eq_ite (s : State) : s.cfg = if s.regs.isSome then .configured else .unconfigured := by
  unfold State.cfg
  cases s.regs <;> rfl

theorem State.cfg_not_both (s : State) (hu : s.cfg = .unconfigured) (hc : s.cfg = .configured) : False := by
  cases hu.symm.trans hc

/-- Settles O11: of the effects of a command only an installation changes CFG, and that to CONFIGURED. -/
theorem onlyConstructConfiguresOnlyResetUnconfigures : Obligations.OnlyConstructConfiguresOnlyResetUnconfigures := by
  unfold Obligations.OnlyConstructConfiguresOnlyResetUnconfigures
  intro s t h
  obtain ⟨-, rfl⟩ | ⟨rest, hin, rfl⟩ | ⟨c, rest, i, hin, hdecode, hexec⟩ := step_cases h
  · exact ⟨fun hu hc => (t.cfg_not_both hu hc).elim, fun hc hu => (t.cfg_not_both hu hc).elim⟩
  · exact ⟨fun _ hc => (nomatch hc), fun _ _ => ⟨rest, hin⟩⟩
  · cases commandEffect_of_exec hexec with
    | installed hi => exact ⟨fun _ _ => ⟨c, rest, i, _, hin, hdecode, hi, rfl⟩, fun _ hu => nomatch hu⟩
    | operated r hs =>
      exact ⟨fun hu _ => (s.cfg_not_both hu ((State.cfg_configured_iff s).2 ⟨r, hs⟩)).elim, fun _ hu => nomatch hu⟩
    | kept resp =>
      have hcfg : (State.complete (s.withInputs rest) s.regs resp).cfg = s.cfg := by
        rw [State.cfg_eq_ite, State.cfg_eq_ite]
      exact ⟨fun hu hc => (s.cfg_not_both hu (hcfg ▸ hc)).elim, fun hc hu => (s.cfg_not_both (hcfg ▸ hu) hc).elim⟩

/-! ## What a command reads (R108) -/

/-- With the parameters and the registers fixed, a command has one answer, or one refusal, whatever the ports hold. -/
theorem exec_same_answer (i : Instr) (c : Config) (regs : Option (Registers c.W)) :
    (∃ (g : Option (Registers c.W)) (resp : Response c.W), ∀ ins rs,
      exec i { params := c, regs := regs, inputs := ins, responses := rs } =
        .next { params := c, regs := g, inputs := ins, responses := rs ++ [resp] }) ∨
    ∃ e : Refusal, ∀ ins rs,
      exec i { params := c, regs := regs, inputs := ins, responses := rs } = .refused e := by
  cases hi : i.format with
  | O =>
    cases regs with
    | none => exact .inr ⟨.unconfigured, fun ins rs => exec_unconfigured hi rfl⟩
    | some r =>
      obtain ⟨x, resp, hexec⟩ := exec_operate_configured hi c r
      exact .inl ⟨_, resp, hexec⟩
  | C =>
    obtain ⟨mk, hmk, width, taps, seed, rfl⟩ := exists_constructor_of_format_C hi
    cases hbuild : build c.W width taps with
    | error e =>
      exact .inl ⟨regs, .error e, fun ins rs =>
        exec_constructor_of_build_error (s := ⟨c, regs, ins, rs⟩) hbuild hmk seed⟩
    | ok m =>
      obtain ⟨haccepted, -⟩ := accepted_of_build_ok hbuild
      obtain ⟨v, taps', -, hexec⟩ := exec_constructor_installs haccepted hmk
      exact .inl ⟨_, .ok, hexec seed regs⟩
  | B =>
    obtain ⟨width, taps, rfl⟩ := exists_tapmask_of_format_B hi
    cases hbuild : build c.W width taps with
    | error e =>
      exact .inl ⟨regs, .error e, fun ins rs => exec_tapmask_of_build_error (s := ⟨c, regs, ins, rs⟩) hbuild⟩
    | ok m => exact .inl ⟨regs, .word m, fun ins rs => exec_tapmask_of_build_ok (s := ⟨c, regs, ins, rs⟩) hbuild⟩

/-- Settles O16: the one answer, at the ports of `s` and at the other ports. -/
theorem commandsReadOnlyRegistersAndOperands : Obligations.CommandsReadOnlyRegistersAndOperands := by
  unfold Obligations.CommandsReadOnlyRegistersAndOperands
  intro i s ins rs
  obtain ⟨g, resp, h⟩ | ⟨e, h⟩ := exec_same_answer i s.params s.regs
  · exact .inl ⟨g, resp, h s.inputs s.responses, h ins rs⟩
  · exact .inr ⟨e, h s.inputs s.responses, h ins rs⟩

/-! ## Steps that run a command (R50, R60, R102) -/

theorem step_command {s : State} {c : Command s.params.W} {rest : List (HostEvent s.params.W)} {i : Instr}
    (hs : s.inputs = .command c :: rest) (hdecode : decode c = .ok i) : step s = exec i (s.withInputs rest) := by
  simp only [step, hs, hdecode]

/-- Settles O6: the cases of the head of the command port. -/
theorem stepRunsTheDecodedCommand : Obligations.StepRunsTheDecodedCommand := by
  unfold Obligations.StepRunsTheDecodedCommand
  refine ⟨fun s c rest i hs hdecode => step_command hs hdecode, fun s hs => ?_, fun s rest hs => step_reset hs⟩
  simp only [step, hs]

/-- Settles O39: which variant and which taps a constructor installs does not depend on its seed. -/
theorem setEqualsReseeding : Obligations.SetEqualsReseeding := by
  unfold Obligations.SetEqualsReseeding
  intro s width taps seed x h mk hmk
  obtain ⟨v, taps', -, hexec⟩ := exec_constructor_installs h hmk
  exact ⟨_, _, hexec seed.toNat s.regs s.inputs s.responses, hexec x.toNat s.regs s.inputs s.responses,
    exec_set_of_configured (s := s.complete (some (built s.params.W v width taps' _)) .ok) rfl x.toNat⟩

/-- R60: a step that runs a direct constructor on accepted operands leaves its variant. -/
theorem step_construct {s : State} {c : Command s.params.W} {rest : List (HostEvent s.params.W)}
    (hs : s.inputs = .command c :: rest) (h : Accepted s.params.W c.aWidth c.aTaps) {i : Instr}
    (hdecode : decode c = .ok i) (v : Variant)
    (hexec : exec i (s.withInputs rest) =
      .next ((s.withInputs rest).construct v c.aWidth c.aTaps (wordOperand s.params.W c.aWord.toNat))) :
    ∃ r : Registers s.params.W,
      step s = .next ((s.withInputs rest).complete (some r) .ok) ∧ r.variant.code = v.code := by
  refine ⟨built s.params.W v c.aWidth c.aTaps (wordOperand s.params.W c.aWord.toNat), ?_, rfl⟩
  rw [step_command hs hdecode, hexec, State.construct_of_accepted (s := s.withInputs rest) h]

/-- Settles O7: the four direct constructors one by one, and CONSTRUCT.GALOIS.FIB, which installs a GALOIS instance. -/
theorem variantCodeIsTheConstructorsOpcodeBits : Obligations.VariantCodeIsTheConstructorsOpcodeBits := by
  unfold Obligations.VariantCodeIsTheConstructorsOpcodeBits
  refine ⟨⟨rfl, rfl, rfl, rfl⟩, fun s c rest hs h => ⟨fun hrange => ?_, fun hop => ?_⟩⟩
  · obtain ⟨hnaive, hcountones, hpopcnt, hgalois, -⟩ := opcodeMapDecodes.1 _ c
    have hop : c.op = 0x10#8 ∨ c.op = 0x11#8 ∨ c.op = 0x12#8 ∨ c.op = 0x13#8 := by bv_omega
    obtain hop | hop | hop | hop := hop <;> rw [hop]
    · exact step_construct hs h (hnaive hop) .naive rfl
    · exact step_construct hs h (hcountones hop) .countones rfl
    · exact step_construct hs h (hpopcnt hop) .popcnt rfl
    · exact step_construct hs h (hgalois hop) .galois rfl
  · have hdecode : decode c = .ok (.constructGaloisFib c.aWidth c.aTaps c.aWord.toNat) := by simp [decode, hop]
    refine ⟨builtGaloisFib s.params.W c.aWidth c.aTaps (wordOperand s.params.W c.aWord.toNat), ?_, rfl⟩
    rw [step_command hs hdecode, exec_constructGaloisFib_of_accepted (s := s.withInputs rest) h]

end Sys2Proof.Machine

/-! PROOFS. MULTICLOCK against CLOCK (R98): a run of CLOCK commands answers the output sequence one bit at a time, and
output sequences split. -/

namespace Sys2Proof.Machine

theorem Registers.outputs_succ {W : Nat} (hw : Bool) (n : Nat) (r : Registers W) :
    (List.range (n + 1)).map (r.output hw) = r.out :: (List.range n).map ((r.clocked hw).output hw) := by
  rw [List.range_succ_eq_map, List.map_cons, List.map_map]
  rfl

/-- One presented CLOCK, run on a configured engine. -/
theorem step_clock {s : State} {r : Registers s.params.W} {rest : List (HostEvent s.params.W)} (hs : s.regs = some r)
    (hin : s.inputs = .command (encode s.params.W .clock) :: rest) :
    step s = .next ((s.withInputs rest).complete (some (r.clocked s.params.hasPopcnt)) (.bit r.out)) := by
  rw [step_command hin (decode_encode rfl)]
  exact exec_clock_of_configured (s := s.withInputs rest) hs

/-- `n` presented CLOCKs answer the first `n` output bits and leave the registers after `n` clocks. -/
theorem run_clocks {s : State} {r : Registers s.params.W} {n : Nat} {rest : List (HostEvent s.params.W)}
    (hs : s.regs = some r)
    (hin : s.inputs = List.replicate n (.command (encode s.params.W .clock)) ++ rest) :
    run n s = .next
      { params := s.params, regs := some (r.after s.params.hasPopcnt n), inputs := rest,
        responses :=
          s.responses ++ ((List.range n).map (r.output s.params.hasPopcnt)).map fun b => Response.bit b } := by
  induction n generalizing s r with
  | zero =>
    have hrest : s.inputs = rest := hin
    simp [← hs, ← hrest]
  | succ n ih =>
    rw [List.replicate_succ, List.cons_append] at hin
    rw [run_succ_next (step_clock hs hin), ih rfl rfl, Registers.outputs_succ, List.map_cons, List.append_assoc]
    rfl

/-- Settles O35: MULTICLOCK and the run of CLOCKs both give the output sequence and the registers after it. -/
theorem multiclockEqualsTheLoopOfClocks : Obligations.MulticlockEqualsTheLoopOfClocks := by
  unfold Obligations.MulticlockEqualsTheLoopOfClocks
  exact fun s r n rest hs hin => ⟨_, _, by simp, exec_multiclock_of_configured hs n, run_clocks hs hin⟩

/-- The output sequence of `a + b` clocks is that of `a` clocks and then that of `b` clocks. -/
theorem Registers.outputs_add {W : Nat} (hw : Bool) (a b : Nat) (r : Registers W) :
    (List.range (a + b)).map (r.output hw) =
      (List.range a).map (r.output hw) ++ (List.range b).map ((r.after hw a).output hw) := by
  rw [List.range_add, List.map_append, List.map_map]
  congr 2
  funext k
  exact r.output_add hw a k

/-- Settles O36: the second command starts at the registers after `a` clocks. -/
theorem multiclockSplits : Obligations.MulticlockSplits := by
  unfold Obligations.MulticlockSplits
  intro s r a b hs
  refine ⟨_, _, _, _, exec_multiclock_of_configured hs a, exec_multiclock_of_configured rfl b, ?_⟩
  rw [exec_multiclock_of_configured hs (a + b), Registers.outputs_add, Registers.after_add]

end Sys2Proof.Machine

/-! PROOFS. The feedback of accepted taps (R111, R121, R122, R147): the parity over the mask is the exclusive-or over
the distinct positions, the fold counts each position as often as it occurs, and a word with one bit set tells the two
apart. -/

namespace Sys2Proof.Machine

/-! ## Exclusive-or over parts of a list (R17) -/

theorem xorOver_false (xs : List Nat) : xorOver xs (fun _ => false) = false := by
  induction xs with
  | nil => rfl
  | cons x xs ih => simp [ih]

theorem xorOver_filter (xs : List Nat) (P f : Nat → Bool) :
    xorOver (xs.filter P) f = xorOver xs fun x => f x && P x := by
  induction xs with
  | nil => rfl
  | cons x xs ih => cases hP : P x <;> simp [hP, ih]

/-- In a list without repeats a term that vanishes off `t` counts once. -/
theorem xorOver_single {xs : List Nat} (hxs : xs.Nodup) {t : Nat} (ht : t ∈ xs) (f : Nat → Bool) :
    xorOver xs (fun x => f x && decide (x = t)) = f t := by
  induction xs with
  | nil => cases ht
  | cons x xs ih =>
    obtain ⟨hx, hnodup⟩ := List.nodup_cons.1 hxs
    rw [xorOver_cons]
    by_cases hxt : x = t
    · subst hxt
      have hrest : xorOver xs (fun y => f y && decide (y = x)) = false := by
        rw [← xorOver_false xs]
        refine xorOver_congr fun y hy => ?_
        have hyx : y ≠ x := fun h => hx (h ▸ hy)
        simp [hyx]
      simp [hrest]
    · have hmem : t ∈ xs := (List.mem_cons.1 ht).resolve_left fun h => hxt h.symm
      simp [hxt, ih hnodup hmem]

/-- Each element counts as often as it occurs: over any list without repeats that has all of them, it contributes when
it occurs an odd number of times. -/
theorem xorOver_eq_odd_count {ys : List Nat} (hys : ys.Nodup) {xs : List Nat} (hsub : xs ⊆ ys) (f : Nat → Bool) :
    xorOver xs f = xorOver ys fun y => f y && (xs.count y % 2 == 1) := by
  induction xs with
  | nil => simpa using (xorOver_false ys).symm
  | cons x xs ih =>
    obtain ⟨hx, hxs⟩ := List.cons_subset.1 hsub
    rw [xorOver_cons, ih hxs, ← xorOver_single hys hx f, ← xorOver_xor]
    refine xorOver_congr fun y _ => ?_
    rw [List.count_cons, ← Bool.and_xor_distrib_left]
    by_cases hxy : y = x
    · subst hxy
      obtain h | h := Nat.mod_two_eq_zero_or_one (xs.count y) <;> simp [h, Nat.add_mod]
    · have hyx : x ≠ y := Ne.symm hxy
      simp [hxy, hyx]

/-- A sum over bit numbers `j` with `j + 1 + d` a tap is the sum over the distinct taps above `d`. -/
theorem xorOver_range_mem {N d : Nat} {taps : List Nat} (htaps : ∀ t ∈ taps, t ≤ N + d) (f : Nat → Bool) :
    xorOver (List.range N) (fun j => f j && decide (j + 1 + d ∈ taps)) =
      xorOver ((positions taps).filter fun p => d < p) fun p => f (p - 1 - d) := by
  have hperm : (((List.range N).filter fun j => decide (j + 1 + d ∈ taps)).map fun j => j + 1 + d).Perm
      ((positions taps).filter fun p => d < p) := by
    refine (List.perm_ext_iff_of_nodup ?_ ((List.nodup_dedup taps).filter _)).2 fun p => ?_
    · exact (List.nodup_range.filter _).map fun a b h => by simpa using h
    · simp only [List.mem_map, List.mem_filter, List.mem_range, decide_eq_true_eq, List.mem_dedup]
      constructor
      · rintro ⟨j, ⟨-, hmem⟩, rfl⟩
        exact ⟨hmem, by omega⟩
      · rintro ⟨hmem, hd⟩
        have hle := htaps p hmem
        have hp : p - 1 - d + 1 + d = p := by omega
        exact ⟨p - 1 - d, ⟨by omega, by rwa [hp]⟩, hp⟩
  rw [← xorOver_perm hperm, xorOver_map, ← xorOver_filter]
  refine xorOver_congr fun j _ => ?_
  have hj : j + 1 + d - 1 - d = j := by omega
  rw [hj]

/-! ## The two feedbacks (R111, R121, R122) -/

/-- `mask_getLsbD_iff_mem` as an equation of bits. -/
theorem mask_getLsbD_eq_mem {W : Nat} {taps : List Nat} (htaps : ∀ t ∈ taps, 1 ≤ t ∧ t ≤ W) (i : Nat) :
    (mask W taps).getLsbD i = decide (i + 1 ∈ taps) := by
  rw [Bool.eq_iff_iff, mask_getLsbD_iff_mem htaps, decide_eq_true_iff]

theorem positions_filter_pos {taps : List Nat} (htaps : ∀ t ∈ taps, 1 ≤ t) :
    (positions taps).filter (fun p => 0 < p) = positions taps :=
  List.filter_eq_self.2 fun p hp => decide_eq_true (htaps p (List.mem_dedup.1 hp))

theorem Accepted.taps_le_W {W width : Nat} {taps : List Nat} (h : Accepted W width taps) :
    ∀ t ∈ taps, 1 ≤ t ∧ t ≤ W := by
  obtain ⟨-, hW, htaps⟩ := h
  exact fun t ht => ⟨(htaps t ht).1, (htaps t ht).2.trans hW⟩

theorem fbParity_mask {W width : Nat} {taps : List Nat} (h : Accepted W width taps) (s : Word W) :
    fbParity (mask W taps) s = xorOver (positions taps) fun p => s.getLsbD (p - 1) := by
  have htaps := h.taps_le_W
  have hmask (i : Nat) : (mask W taps).getLsbD i = decide (i + 1 + 0 ∈ taps) := mask_getLsbD_eq_mem htaps i
  rw [fbParity_eq_xorOver]
  simp only [hmask]
  rw [xorOver_range_mem (d := 0) fun t ht => (htaps t ht).2, positions_filter_pos fun t ht => (htaps t ht).1]
  rfl

/-- The fold over the distinct positions, each taken when its multiplicity is odd (R123). -/
theorem fbFold_eq_odd_count {W : Nat} (taps : List Nat) (s : Word W) :
    fbFold taps s = xorOver (positions taps) fun p => s.getLsbD (p - 1) && (taps.count p % 2 == 1) :=
  xorOver_eq_odd_count (List.nodup_dedup taps) (fun _ ht => List.mem_dedup.2 ht) _

theorem fbFold_eq_fbParity_of_odd {W width : Nat} {taps : List Nat} (h : Accepted W width taps) (hodd : OddTaps taps)
    (s : Word W) : fbFold taps s = fbParity (mask W taps) s := by
  rw [fbFold_eq_odd_count, fbParity_mask h]
  refine xorOver_congr fun p hp => ?_
  simp [hodd p (List.mem_dedup.1 hp)]

/-- The word with only the bit of tap `t` set. -/
def tapBit (W t : Nat) : Word W := zext W true <<< (t - 1)

theorem tapBit_getLsbD {W width : Nat} {taps : List Nat} (h : Accepted W width taps) {t p : Nat} (ht : t ∈ taps)
    (hp : p ∈ taps) : (tapBit W t).getLsbD (p - 1) = decide (p = t) := by
  obtain ⟨ht1, htW⟩ := h.taps_le_W t ht
  obtain ⟨hp1, hpW⟩ := h.taps_le_W p hp
  have hlt : p - 1 < W := by omega
  have heq : p - 1 = t - 1 ↔ p = t := by omega
  rw [tapBit, zext_shift_getLsbD]
  simp [hlt, heq]

/-- What tells the two feedbacks apart: on the bit of one tap the parity is 1, and the fold is the parity of how often
the tap occurs. -/
theorem feedbacks_tapBit {W width : Nat} {taps : List Nat} (h : Accepted W width taps) {t : Nat} (ht : t ∈ taps) :
    fbParity (mask W taps) (tapBit W t) = true ∧ fbFold taps (tapBit W t) = (taps.count t % 2 == 1) := by
  have hpos : t ∈ positions taps := List.mem_dedup.2 ht
  have hbit : ∀ p ∈ positions taps, (tapBit W t).getLsbD (p - 1) = decide (p = t) :=
    fun p hp => tapBit_getLsbD h ht (List.mem_dedup.1 hp)
  constructor
  · rw [fbParity_mask h, ← xorOver_single (List.nodup_dedup taps) hpos fun _ => true]
    exact xorOver_congr fun p hp => by simp [hbit p hp]
  · rw [fbFold_eq_odd_count, ← xorOver_single (List.nodup_dedup taps) hpos fun p => taps.count p % 2 == 1]
    exact xorOver_congr fun p hp => by rw [hbit p hp, Bool.and_comm]

theorem oddTaps_of_feedbacks_tapBit {W width : Nat} {taps : List Nat} (h : Accepted W width taps)
    (heq : ∀ t ∈ taps, fbParity (mask W taps) (tapBit W t) = fbFold taps (tapBit W t)) : OddTaps taps := by
  intro t ht
  obtain ⟨hparity, hfold⟩ := feedbacks_tapBit h ht
  have hone : true = (taps.count t % 2 == 1) := hparity.symm.trans ((heq t ht).trans hfold)
  exact beq_iff_eq.1 hone.symm

/-- Settles O43: odd multiplicity makes the terms equal one by one, and without it the bit of an offending tap is a word
on which the two feedbacks differ. -/
theorem parityEqualsFoldIffOddMultiplicity : Obligations.ParityEqualsFoldIffOddMultiplicity := by
  unfold Obligations.ParityEqualsFoldIffOddMultiplicity
  exact fun W width taps h => ⟨fbParity_mask h, fun heq => oddTaps_of_feedbacks_tapBit h fun t _ => heq (tapBit W t),
    fun hodd s => (fbFold_eq_fbParity_of_odd h hodd s).symm⟩

/-! ## Mirrored taps (R147) -/

theorem mirror_mirror {width t : Nat} (h1 : 1 ≤ t) (hw : t ≤ width) :
    1 ≤ mirror width t ∧ mirror width t ≤ width ∧ mirror width (mirror width t) = t := by
  unfold mirror
  omega

theorem mem_mirrorTaps_iff {W width : Nat} {taps : List Nat} (h : Accepted W width taps) {u : Nat} (h1 : 1 ≤ u)
    (hu : u ≤ width) : u ∈ mirrorTaps width taps ↔ mirror width u ∈ taps := by
  obtain ⟨-, -, hself⟩ := mirror_mirror h1 hu
  obtain ⟨-, -, htaps⟩ := h
  constructor
  · intro hmem
    obtain ⟨t, ht, rfl⟩ := List.mem_map.1 hmem
    obtain ⟨ht1, htw⟩ := htaps t ht
    obtain ⟨-, -, hback⟩ := mirror_mirror ht1 htw
    rwa [hback]
  · exact fun hmem => List.mem_map.2 ⟨_, hmem, hself⟩

/-- Bit `i` of the mirrored mask is that of the tap which mirrors `i + 1`. -/
theorem mask_mirrorTaps_getLsbD {W width : Nat} {taps : List Nat} (h : Accepted W width taps) {i : Nat}
    (hi : i < width) : (mask W (mirrorTaps width taps)).getLsbD i = decide (width - i ∈ taps) := by
  have hmirror : mirror width (i + 1) = width - i := by
    unfold mirror
    omega
  rw [mask_getLsbD_eq_mem (accepted_mirrorTaps h).taps_le_W, ← hmirror]
  exact decide_eq_decide.2 (mem_mirrorTaps_iff h (by omega) (by omega))

theorem mask_getLsbD_of_width_le {W width : Nat} {taps : List Nat} (h : Accepted W width taps) {i : Nat}
    (hi : width ≤ i) : (mask W taps).getLsbD i = false := by
  rw [mask_getLsbD_eq_mem h.taps_le_W, decide_eq_false_iff_not]
  obtain ⟨-, -, htaps⟩ := h
  intro hmem
  obtain ⟨-, hle⟩ := htaps _ hmem
  omega

/-- Settles O23: bit `i` of the mirrored mask and bit `width - 1 - i` of the mask are both about the tap `width - i`. -/
theorem mirroredMaskIsReversed : Obligations.MirroredMaskIsReversed := by
  unfold Obligations.MirroredMaskIsReversed
  refine fun W width taps h => ⟨fun t h1 hw => mirror_mirror h1 hw, fun i hi => ?_,
    fun i hi => mask_getLsbD_of_width_le (accepted_mirrorTaps h) hi⟩
  have hsub : width - 1 - i + 1 = width - i := by omega
  rw [mask_mirrorTaps_getLsbD h hi, mask_getLsbD_eq_mem h.taps_le_W, hsub]

end Sys2Proof.Machine

/-! PROOFS. The step functions on accepted operands (R113 to R116, R142, R143, R149, R150, R163, R171): what reaches the
bits at WIDTH and above, canonical states, the empty tap list, the zero state, and linearity. -/

namespace Sys2Proof.Machine

/-! ## Canonical words -/

theorem canonical_iff {W width : Nat} (v : Word W) : Canonical width v ↔ ∀ i, width ≤ i → v.getLsbD i = false := by
  constructor
  · intro h i hi
    exact Nat.testBit_lt_two_pow (h.trans_le (Nat.pow_le_pow_right Nat.zero_lt_two hi))
  · exact fun h => Nat.lt_pow_two_of_testBit _ fun i hi => h i hi

/-- Canonical words are equal when their low `width` bits are. -/
theorem Canonical.ext {W width : Nat} {v v' : Word W} (h : Canonical width v) (h' : Canonical width v')
    (hbits : ∀ i, i < width → v.getLsbD i = v'.getLsbD i) : v = v' := by
  refine BitVec.eq_of_getLsbD_eq fun i _ => ?_
  by_cases hi : i < width
  · exact hbits i hi
  · rw [(canonical_iff v).1 h i (by omega), (canonical_iff v').1 h' i (by omega)]

/-! ## The step of each variant on accepted operands -/

/-- The taps a Fibonacci variant's feedback sums over: the list for NAIVE, the distinct positions for the others. -/
def feedbackTaps (v : Variant) (taps : List Nat) : List Nat :=
  match v with
  | .naive => taps
  | .countones => positions taps
  | .popcnt => positions taps
  | .galois => positions taps

theorem mem_feedbackTaps {v : Variant} {taps : List Nat} {t : Nat} : t ∈ feedbackTaps v taps ↔ t ∈ taps := by
  cases v with
  | naive => exact Iff.rfl
  | countones | popcnt | galois => exact List.mem_dedup

/-- R111, R121, R131: one form for the three Fibonacci steps. -/
theorem nextWord_eq_fibStep {W width : Nat} {taps : List Nat} (h : Accepted W width taps) {v : Variant}
    (hv : v ≠ .galois) (hw : Bool) (s : Word W) :
    nextWord hw v width taps (mask W taps) s =
      fibStep width (xorOver (feedbackTaps v taps) fun t => s.getLsbD (t - 1)) s := by
  cases v with
  | naive => rfl
  | countones => exact congrArg (fibStep width · s) (fbParity_mask h s)
  | popcnt => exact congrArg (fibStep width · s) ((fbPopcnt_eq_fbParity hw _ s).trans (fbParity_mask h s))
  | galois => exact absurd rfl hv

/-- R114, R149: a bit at WIDTH or above is the bit above it before the clock. -/
theorem nextWord_getLsbD_of_width_le {W width : Nat} {taps : List Nat} (h : Accepted W width taps) (hw : Bool)
    (v : Variant) (s : Word W) {i : Nat} (hi : width ≤ i) :
    (nextWord hw v width taps (mask W taps) s).getLsbD i = s.getLsbD (i + 1) := by
  by_cases hv : v = .galois
  · subst hv
    rw [nextWord, galStep_getLsbD, mask_getLsbD_of_width_le h hi, Bool.and_false, Bool.xor_false]
  · have h1 : 1 ≤ width := h.1
    rw [nextWord_eq_fibStep h hv, fibStep_getLsbD_of_ne (by omega)]

theorem Registers.Valid.state_clocked {W : Nat} {r : Registers W} (h : r.Valid) (hw : Bool) :
    (r.clocked hw).state = nextWord hw r.variant r.width r.taps (mask W r.taps) r.state := by
  obtain ⟨-, hmask⟩ := h
  rw [Registers.clocked_state, hmask]

theorem Registers.Valid.clocked {W : Nat} {r : Registers W} (h : r.Valid) (hw : Bool) : (r.clocked hw).Valid := h

theorem Registers.Valid.clocked_getLsbD {W : Nat} {r : Registers W} (h : r.Valid) (hw : Bool) {i : Nat}
    (hi : r.width ≤ i) : (r.clocked hw).state.getLsbD i = r.state.getLsbD (i + 1) := by
  rw [h.state_clocked hw, nextWord_getLsbD_of_width_le h.1 hw r.variant r.state hi]

/-! ## Canonical states and dead bits -/

theorem Registers.Valid.clocked_canonical {W : Nat} {r : Registers W} (h : r.Valid) (hw : Bool)
    (hr : Canonical r.width r.state) : Canonical r.width (r.clocked hw).state := by
  rw [canonical_iff] at hr ⊢
  intro i hi
  rw [h.clocked_getLsbD hw hi, hr (i + 1) (by omega)]

/-- Settles O49: the bit that enters at WIDTH or above is a bit above WIDTH, which is 0. -/
theorem canonicalStatesAreClosed : Obligations.CanonicalStatesAreClosed := by
  unfold Obligations.CanonicalStatesAreClosed
  exact fun W r hw h hr => h.clocked_canonical hw hr

/-- Where every clock shifts the bits from `b` on, `n` clocks shift them by `n`. -/
theorem Registers.after_getLsbD_of_shift {W b : Nat} {hw : Bool} {P : Registers W → Prop}
    (hP : ∀ r, P r → P (r.clocked hw))
    (hshift : ∀ r, P r → ∀ i, b ≤ i → (r.clocked hw).state.getLsbD i = r.state.getLsbD (i + 1))
    (n : Nat) {r : Registers W} (hr : P r) {i : Nat} (hi : b ≤ i) :
    (r.after hw n).state.getLsbD i = r.state.getLsbD (i + n) := by
  induction n generalizing r with
  | zero => rfl
  | succ n ih =>
    have hin : b ≤ i + n := by omega
    rw [Registers.after_succ, ih (hP r hr), hshift r hr (i + n) hin, Nat.add_assoc]

/-- Settles O50: after `n` clocks bit `i` is the old bit `i + n`, and there is none from `W` on. -/
theorem deadStateDrains : Obligations.DeadStateDrains := by
  unfold Obligations.DeadStateDrains
  refine fun W r hw h => ⟨fun i hi => h.clocked_getLsbD hw hi, fun n hn => (canonical_iff _).2 fun i hi => ?_⟩
  have hbit : (r.after hw n).state.getLsbD i = r.state.getLsbD (i + n) :=
    Registers.after_getLsbD_of_shift (P := fun r' => r'.Valid ∧ r'.width = r.width)
      (fun _ ⟨hvalid, hwidth⟩ => ⟨hvalid.clocked hw, hwidth⟩)
      (fun _ ⟨hvalid, hwidth⟩ _ hi' => hvalid.clocked_getLsbD hw (hwidth.trans_le hi')) n ⟨h, rfl⟩ hi
  rw [hbit]
  exact BitVec.getLsbD_of_ge _ _ (by omega)

/-! ## No taps -/

theorem nextWord_nil {W width : Nat} (h : Accepted W width []) (hw : Bool) (v : Variant) (s : Word W) :
    nextWord hw v width [] (mask W []) s = s >>> 1 := by
  by_cases hv : v = .galois
  · subst hv
    simp [nextWord, galStep, mask]
  · have hnone : feedbackTaps v [] = [] := List.eq_nil_iff_forall_not_mem.2 fun t ht => by
      simpa using mem_feedbackTaps.1 ht
    rw [nextWord_eq_fibStep h hv, hnone]
    simp [fibStep, zext]

theorem Registers.Valid.clocked_of_no_taps {W : Nat} {r : Registers W} (h : r.Valid) (htaps : r.taps = [])
    (hw : Bool) : (r.clocked hw).state = r.state >>> 1 := by
  have hstate := h.state_clocked hw
  obtain ⟨haccepted, -⟩ := h
  rw [htaps] at hstate haccepted
  rw [hstate, nextWord_nil haccepted]

/-- Settles O51: with no taps every bit is shifted, so after `n` clocks bit `i` is the old bit `i + n`. -/
theorem emptyTapListOnlyShifts : Obligations.EmptyTapListOnlyShifts := by
  unfold Obligations.EmptyTapListOnlyShifts
  refine fun W r hw h htaps => ⟨h.clocked_of_no_taps htaps hw, fun hcanonical n hn => ?_⟩
  refine BitVec.eq_of_getLsbD_eq fun i _ => ?_
  have hbit : (r.after hw n).state.getLsbD i = r.state.getLsbD (i + n) := by
    refine Registers.after_getLsbD_of_shift (P := fun r' => r'.Valid ∧ r'.taps = [])
      (fun _ ⟨hvalid, hnil⟩ => ⟨hvalid.clocked hw, hnil⟩) ?_ n ⟨h, htaps⟩ (Nat.zero_le i)
    rintro r' ⟨hvalid, hnil⟩ j -
    rw [hvalid.clocked_of_no_taps hnil, BitVec.getLsbD_ushiftRight, Nat.add_comm]
  rw [hbit, (canonical_iff _).1 hcanonical (i + n) (by omega), BitVec.getLsbD_zero]

/-! ## The zero state -/

/-- R171: whatever the registers hold besides, each step maps 0 to 0. -/
theorem nextWord_zero {W : Nat} (hw : Bool) (v : Variant) (width : Nat) (taps : List Nat) (m : Word W) :
    nextWord hw v width taps m 0#W = 0#W := by
  have hfold : fbFold taps 0#W = false := by simp [fbFold, xorOver_false]
  have hparity : fbParity m 0#W = false := by simp [fbParity_eq_xorOver, xorOver_false]
  cases v with
  | naive => simp [nextWord, hfold, fibStep, zext]
  | countones | popcnt => simp [nextWord, hparity, fibStep, zext]
  | galois => simp [nextWord, galStep]

theorem Registers.after_state_zero {W : Nat} (hw : Bool) {r : Registers W} (hr : r.state = 0#W) (n : Nat) :
    (r.after hw n).state = 0#W := by
  induction n with
  | zero => exact hr
  | succ n ih => rw [Registers.after_succ', Registers.clocked_state, ih, nextWord_zero]

/-- Settles O52: zero is a fixed point of every step, and its bit 0 is 0. -/
theorem zeroStateIsAbsorbing : Obligations.ZeroStateIsAbsorbing := by
  unfold Obligations.ZeroStateIsAbsorbing
  intro W r hw hr n
  have hzero := Registers.after_state_zero hw hr n
  refine ⟨hzero, ?_⟩
  rw [Registers.output, Registers.out, hzero, BitVec.getLsbD_zero]

/-! ## Linearity (R163) -/

theorem galStep_xor {W : Nat} (m a b : Word W) : galStep m (a ^^^ b) = galStep m a ^^^ galStep m b := by
  refine BitVec.eq_of_getLsbD_eq fun i _ => ?_
  simp only [galStep_getLsbD, BitVec.getLsbD_xor, Bool.and_xor_distrib_right, Bool.xor_assoc, Bool.xor_left_comm]

/-- The Fibonacci step is an inclusive-or, which is an exclusive one where bit `width` is 0. -/
theorem fibStep_xor {W width : Nat} (h1 : 1 ≤ width) {a b : Word W} (ha : Canonical width a) (hb : Canonical width b)
    (f g : Bool) : fibStep width (f ^^ g) (a ^^^ b) = fibStep width f a ^^^ fibStep width g b := by
  refine BitVec.eq_of_getLsbD_eq fun i hi => ?_
  by_cases hfb : i = width - 1
  · have hnext : i + 1 = width := by omega
    have ha0 : a.getLsbD (i + 1) = false := (canonical_iff a).1 ha _ hnext.ge
    have hb0 : b.getLsbD (i + 1) = false := (canonical_iff b).1 hb _ hnext.ge
    rw [BitVec.getLsbD_xor]
    simp only [fibStep_getLsbD, BitVec.getLsbD_xor, ha0, hb0, hi, ← hfb]
    simp
  · simp only [BitVec.getLsbD_xor, fibStep_getLsbD_of_ne hfb]

/-- Settles O53: each step is a shift, which is linear, and a feedback, which is a sum of bits. -/
theorem stepsAreLinear : Obligations.StepsAreLinear := by
  unfold Obligations.StepsAreLinear
  refine ⟨fun W width taps hw v a b h ha hb => ?_, fun W m a b => galStep_xor m a b⟩
  by_cases hv : v = .galois
  · subst hv
    exact galStep_xor _ a b
  · simp only [nextWord_eq_fibStep h hv, BitVec.getLsbD_xor, xorOver_xor]
    exact fibStep_xor h.1 ha hb _ _

/-! ## The branchless Galois step (R142) -/

/-- Settles O48: `0 - 1` is all ones and `0 - 0` is 0. -/
theorem branchlessGaloisStep : Obligations.BranchlessGaloisStep := by
  unfold Obligations.BranchlessGaloisStep
  intro W m s
  rw [galStep]
  cases s.getLsbD 0 with
  | false => simp [zext]
  | true => simp [zext, BitVec.neg_one_eq_allOnes]

end Sys2Proof.Machine

/-! PROOFS. Output sequences (R113, R162, R167 to R169): the recurrence that the Fibonacci and the Galois outputs share,
the seed that a Galois instance needs for given first bits, and with it when the two outputs agree for ever. -/

namespace Sys2Proof.Machine

/-! ## Clocking an instance as its constructor leaves it -/

/-- Only the seed of an instance changes as it is clocked. -/
theorem after_built {W : Nat} (hw : Bool) (v : Variant) (width : Nat) (taps : List Nat) (seed : Word W) (n : Nat) :
    (built W v width taps seed).after hw n =
      built W v width taps ((nextWord hw v width taps (mask W taps))^[n] seed) := by
  induction n generalizing seed with
  | zero => rfl
  | succ n ih => exact ih _

theorem output_built_add {W : Nat} (hw : Bool) (v : Variant) (width : Nat) (taps : List Nat) (seed : Word W)
    (n k : Nat) : (built W v width taps seed).output hw (n + k) =
      (built W v width taps ((nextWord hw v width taps (mask W taps))^[n] seed)).output hw k := by
  rw [Registers.output_add, after_built]

theorem iterate_nextWord_canonical {W width : Nat} {taps : List Nat} (h : Accepted W width taps) (hw : Bool)
    (v : Variant) {seed : Word W} (hseed : Canonical width seed) (n : Nat) :
    Canonical width ((nextWord hw v width taps (mask W taps))^[n] seed) := by
  induction n generalizing seed with
  | zero => exact hseed
  | succ n ih => exact ih ((built_valid h v seed).clocked_canonical hw hseed)

/-! ## NAIVE and COUNTONES in lockstep (R162) -/

theorem after_naive_eq_countones {W width : Nat} {taps : List Nat} (h : Accepted W width taps) (hodd : OddTaps taps)
    (hw : Bool) (seed : Word W) (n : Nat) :
    ((built W .naive width taps seed).after hw n).state = ((built W .countones width taps seed).after hw n).state := by
  have hstep : nextWord hw .naive width taps (mask W taps) = nextWord hw .countones width taps (mask W taps) := by
    funext s
    exact congrArg (fibStep width · s) (fbFold_eq_fbParity_of_odd h hodd s)
  rw [after_built, after_built, hstep]
  rfl

theorem output_naive_eq_countones {W width : Nat} {taps : List Nat} (h : Accepted W width taps) (hodd : OddTaps taps)
    (hw : Bool) (seed : Word W) (n : Nat) :
    (built W .naive width taps seed).output hw n = (built W .countones width taps seed).output hw n :=
  congrArg (·.getLsbD 0) (after_naive_eq_countones h hodd hw seed n)

/-- On a word with bit `width` clear the step shows its feedback. -/
theorem feedback_eq_of_fibStep_eq {W width : Nat} (h1 : 1 ≤ width) (hW : width ≤ W) {s : Word W}
    (hs : s.getLsbD width = false) {f g : Bool} (heq : fibStep width f s = fibStep width g s) : f = g := by
  have hbit := congrArg (·.getLsbD (width - 1)) heq
  simpa [fibStep_getLsbD_feedback h1 hW, hs] using hbit

/-- Settles O44: under odd multiplicity the two steps are one function; without it, seeded with the bit of an offending
tap, the two states differ after one clock. -/
theorem naiveMatchesCountonesIffOddMultiplicity : Obligations.NaiveMatchesCountonesIffOddMultiplicity := by
  unfold Obligations.NaiveMatchesCountonesIffOddMultiplicity
  refine fun W width taps hw h => ⟨fun hsame => oddTaps_of_feedbacks_tapBit h fun t ht => ?_,
    fun hodd seed n => ⟨after_naive_eq_countones h hodd hw seed n, output_naive_eq_countones h hodd hw seed n⟩⟩
  obtain ⟨hstep, -⟩ := hsame (tapBit W t) 1
  obtain ⟨h1, hW, htaps⟩ := h
  obtain ⟨ht1, htw⟩ := htaps t ht
  have hclear : (tapBit W t).getLsbD width = false := by
    have hne : width ≠ t - 1 := by omega
    rw [tapBit, zext_shift_getLsbD]
    simp [hne]
  exact (feedback_eq_of_fibStep_eq h1 hW hclear hstep).symm

/-! ## The Fibonacci output (R113) -/

/-- The register is a window on its output: bit `j` comes out after `j` clocks. -/
theorem Registers.output_eq_state_bit {W : Nat} (hw : Bool) {j : Nat} {r : Registers W} (hv : r.variant ≠ .galois)
    (hj : j < r.width) : r.output hw j = r.state.getLsbD j := by
  induction j generalizing r with
  | zero => rfl
  | succ j ih =>
    obtain ⟨fb, hclocked⟩ := Registers.exists_clocked_eq_fibStep hw hv
    have hne : j ≠ r.width - 1 := by omega
    have hshift : (r.clocked hw).state.getLsbD j = r.state.getLsbD (j + 1) := by
      rw [hclocked]
      exact fibStep_getLsbD_of_ne hne fb r.state
    rw [Registers.output_succ, ih (r := r.clocked hw) hv (Nat.lt_of_succ_lt hj), hshift]

/-- The bit that comes out after `width` clocks is the feedback of the first one. -/
theorem output_width_of_fibonacci {W width : Nat} {taps : List Nat} (h : Accepted W width taps) {v : Variant}
    (hv : v ≠ .galois) (hw : Bool) {s : Word W} (hs : Canonical width s) :
    (built W v width taps s).output hw width = xorOver (feedbackTaps v taps) fun t => s.getLsbD (t - 1) := by
  obtain ⟨h1, hW, -⟩ := id h
  have hlast : (built W v width taps s).output hw width =
      ((built W v width taps s).clocked hw).output hw (width - 1) := by
    rw [← Registers.output_succ, Nat.sub_add_cancel h1]
  have hwindow : ((built W v width taps s).clocked hw).output hw (width - 1) =
      (nextWord hw v width taps (mask W taps) s).getLsbD (width - 1) :=
    Registers.output_eq_state_bit hw hv (Nat.sub_one_lt_of_lt h1)
  rw [hlast, hwindow, nextWord_eq_fibStep h hv, fibStep_getLsbD_feedback h1 hW, (canonical_iff s).1 hs width le_rfl,
    Bool.or_false]

theorem output_recurrence_of_fibonacci {W width : Nat} {taps : List Nat} (h : Accepted W width taps) {v : Variant}
    (hv : v ≠ .galois) (hw : Bool) {seed : Word W} (hseed : Canonical width seed) (n : Nat) :
    (built W v width taps seed).output hw (n + width) =
      xorOver (feedbackTaps v taps) fun t => (built W v width taps seed).output hw (n + t - 1) := by
  rw [output_built_add, output_width_of_fibonacci h hv hw (iterate_nextWord_canonical h hw v hseed n)]
  refine xorOver_congr fun t ht => ?_
  obtain ⟨-, -, htaps⟩ := h
  obtain ⟨ht1, htw⟩ := htaps t (mem_feedbackTaps.1 ht)
  have hlt : t - 1 < width := by omega
  rw [Nat.add_sub_assoc ht1, output_built_add]
  exact (Registers.output_eq_state_bit hw (r := built W v width taps _) hv hlt).symm

/-- Settles O54: the window, and the recurrence of each variant's feedback. -/
theorem fibonacciOutputRecurrence : Obligations.FibonacciOutputRecurrence := by
  unfold Obligations.FibonacciOutputRecurrence
  refine fun W width taps seed hw h hseed => ⟨fun v hv k hk => ?_,
    output_recurrence_of_fibonacci h (v := .naive) (by decide) hw hseed, fun v hv => ?_⟩
  · have hgalois : v ≠ .galois := by
      rintro rfl
      exact absurd hv (by decide)
    exact Registers.output_eq_state_bit hw hgalois hk
  · simp only [List.mem_cons, List.not_mem_nil, or_false] at hv
    obtain rfl | rfl := hv
    · exact output_recurrence_of_fibonacci h (v := .countones) (by decide) hw hseed
    · exact output_recurrence_of_fibonacci h (v := .popcnt) (by decide) hw hseed

/-! ## The Galois output (R167) -/

/-- The bits that have been fed back into bit `i` during `k` clocks. -/
theorem Registers.after_getLsbD_of_galois {W : Nat} (hw : Bool) {r : Registers W} (hv : r.variant = .galois)
    (k i : Nat) : (r.after hw k).state.getLsbD i =
      (r.state.getLsbD (i + k) ^^
        xorOver (List.range k) fun j => r.output hw j && r.tapmask.getLsbD (i + k - 1 - j)) := by
  induction k generalizing i with
  | zero => simp
  | succ k ih =>
    obtain ⟨hvariant, -, -, hmask⟩ := Registers.after_configuration hw k r
    have hlast : i + (k + 1) - 1 - k = i := by omega
    have hsum : i + 1 + k = i + (k + 1) := by omega
    rw [Registers.after_succ', Registers.clocked_of_galois hw (hvariant.trans hv), galStep_getLsbD, ih, hsum, hmask,
      List.range_succ, xorOver_append, xorOver_cons, xorOver_nil, Bool.xor_false, hlast, Bool.xor_assoc]
    rfl

/-- R167: over the first `width` clocks the output of CONSTRUCT.GALOIS.FIB's instance is the seed and what the taps, as
given, have fed back. -/
theorem output_galoisFib {W width : Nat} {taps : List Nat} (h : Accepted W width taps) (hw : Bool) (seed : Word W)
    {k : Nat} (hk : k ≤ width) : (builtGaloisFib W width taps seed).output hw k =
      (seed.getLsbD k ^^ xorOver ((positions taps).filter fun p => width - k < p) fun p =>
        (builtGaloisFib W width taps seed).output hw (p - 1 - (width - k))) := by
  have hunrolled := Registers.after_getLsbD_of_galois hw (r := builtGaloisFib W width taps seed) rfl k 0
  rw [Nat.zero_add] at hunrolled
  refine hunrolled.trans (congrArg (seed.getLsbD k ^^ ·) ?_)
  have hrange : ∀ t ∈ taps, t ≤ k + (width - k) := by
    obtain ⟨-, -, htaps⟩ := h
    intro t ht
    obtain ⟨-, htw⟩ := htaps t ht
    omega
  rw [← xorOver_range_mem hrange ((builtGaloisFib W width taps seed).output hw)]
  refine xorOver_congr fun j hj => ?_
  have hjk : j < k := List.mem_range.1 hj
  have htap : width - (k - 1 - j) = j + 1 + (width - k) := by omega
  have hmask : (mask W (mirrorTaps width taps)).getLsbD (k - 1 - j) = decide (j + 1 + (width - k) ∈ taps) := by
    rw [mask_mirrorTaps_getLsbD h (by omega), htap]
  exact congrArg ((builtGaloisFib W width taps seed).output hw j && ·) hmask

theorem output_recurrence_of_galoisFib {W width : Nat} {taps : List Nat} (h : Accepted W width taps) (hw : Bool)
    {seed : Word W} (hseed : Canonical width seed) (n : Nat) :
    (builtGaloisFib W width taps seed).output hw (n + width) =
      xorOver (positions taps) fun p => (builtGaloisFib W width taps seed).output hw (n + p - 1) := by
  have hlater (k : Nat) : (builtGaloisFib W width taps seed).output hw (n + k) =
      (builtGaloisFib W width taps ((nextWord hw .galois width (mirrorTaps width taps)
        (mask W (mirrorTaps width taps)))^[n] seed)).output hw k := output_built_add hw _ _ _ _ n k
  have hcanonical := iterate_nextWord_canonical (accepted_mirrorTaps h) hw .galois hseed n
  rw [hlater, output_galoisFib h hw _ le_rfl, (canonical_iff _).1 hcanonical width le_rfl, Bool.false_xor, Nat.sub_self,
    positions_filter_pos fun t ht => (h.taps_le_W t ht).1]
  refine xorOver_congr fun p hp => ?_
  rw [Nat.add_sub_assoc (h.taps_le_W p (List.mem_dedup.1 hp)).1, hlater, Nat.sub_zero]

/-- Settles O55: the recurrence is the unrolled Galois step over `width` clocks, begun at each canonical state. -/
theorem galoisOutputRecurrence : Obligations.GaloisOutputRecurrence := by
  unfold Obligations.GaloisOutputRecurrence
  exact fun W width taps seed hw h hseed n => output_recurrence_of_galoisFib h hw hseed n

/-- Two sequences with one recurrence are equal when their first `width` bits are. -/
theorem eq_of_recurrence {W width : Nat} {taps : List Nat} (h : Accepted W width taps) {a b : Nat → Bool}
    (ha : ∀ n, a (n + width) = xorOver (positions taps) fun p => a (n + p - 1))
    (hb : ∀ n, b (n + width) = xorOver (positions taps) fun p => b (n + p - 1))
    (hfirst : ∀ k, k < width → a k = b k) (n : Nat) : a n = b n := by
  induction n using Nat.strong_induction_on with
  | _ n ih =>
    by_cases hn : n < width
    · exact hfirst n hn
    · obtain ⟨m, rfl⟩ := Nat.exists_eq_add_of_le' (Nat.le_of_not_lt hn)
      rw [ha, hb]
      refine xorOver_congr fun p hp => ih _ ?_
      obtain ⟨-, -, htaps⟩ := h
      obtain ⟨hp1, hpw⟩ := htaps p (List.mem_dedup.1 hp)
      omega

/-! ## The seed transform (R168) -/

theorem xor_eq_comm : ∀ a b c : Bool, (a ^^ b) = c ↔ (c ^^ b) = a := by decide

theorem xor_eq_left_iff : ∀ a b : Bool, (a ^^ b) = a ↔ b = false := by decide

/-- The word with the bits `f 0` to `f (width - 1)`. -/
def wordOfBits (W width : Nat) (f : Nat → Bool) : Word W :=
  (List.range width).foldl (fun v k => v ||| (zext W (f k) <<< k)) 0#W

theorem foldl_bits_getLsbD {W : Nat} (xs : List Nat) (f : Nat → Bool) (v : Word W) (i : Nat) :
    (xs.foldl (fun v k => v ||| (zext W (f k) <<< k)) v).getLsbD i =
      (v.getLsbD i || (decide (i < W ∧ i ∈ xs) && f i)) := by
  induction xs generalizing v with
  | nil => simp
  | cons x xs ih =>
    rw [List.foldl_cons, ih, BitVec.getLsbD_or, zext_shift_getLsbD, Bool.or_assoc]
    by_cases hix : i = x
    · subst hix
      by_cases hW : i < W <;> cases f i <;> simp [hW]
    · simp [hix]

theorem wordOfBits_getLsbD {W width : Nat} (hW : width ≤ W) (f : Nat → Bool) (i : Nat) :
    (wordOfBits W width f).getLsbD i = (decide (i < width) && f i) := by
  have hlt : i < W ∧ i < width ↔ i < width := ⟨And.right, fun hi => ⟨by omega, hi⟩⟩
  rw [wordOfBits, foldl_bits_getLsbD]
  simp [hlt]

theorem wordOfBits_canonical {W width : Nat} (hW : width ≤ W) (f : Nat → Bool) :
    Canonical width (wordOfBits W width f) := by
  refine (canonical_iff _).2 fun i hi => ?_
  simp [wordOfBits_getLsbD hW, hi]

theorem f2g_eq_wordOfBits {W : Nat} (width : Nat) (taps : List Nat) (s : Word W) :
    f2g width taps s = wordOfBits W width (f2gBit width taps s) := rfl

theorem f2g_canonical {W width : Nat} (hW : width ≤ W) (taps : List Nat) (s : Word W) :
    Canonical width (f2g width taps s) := wordOfBits_canonical hW _

theorem f2g_eq_iff_bits {W width : Nat} (hW : width ≤ W) {taps : List Nat} {s g : Word W} (hg : Canonical width g) :
    f2g width taps s = g ↔ ∀ k, k < width → f2gBit width taps s k = g.getLsbD k := by
  have hbit (k : Nat) (hk : k < width) : (f2g width taps s).getLsbD k = f2gBit width taps s k := by
    rw [f2g_eq_wordOfBits, wordOfBits_getLsbD hW, decide_eq_true hk, Bool.true_and]
  constructor
  · rintro rfl k hk
    exact (hbit k hk).symm
  · exact fun h => Canonical.ext (f2g_canonical hW taps s) hg fun k hk => (hbit k hk).trans (h k hk)

/-- Where the output so far is the word `s`, bit `k` of `F2G(s)` is the seed's exactly when the next output bit is the
word's: each is that bit and the same sum. -/
theorem f2gBit_eq_seed_bit_iff {W width : Nat} {taps : List Nat} (h : Accepted W width taps) (hw : Bool) (s g : Word W)
    {k : Nat} (hk : k < width)
    (hbelow : ∀ j, j < k → (builtGaloisFib W width taps g).output hw j = s.getLsbD j) :
    f2gBit width taps s k = g.getLsbD k ↔ (builtGaloisFib W width taps g).output hw k = s.getLsbD k := by
  have hsum : (xorOver ((positions taps).filter fun p => width - k < p) fun p =>
        (builtGaloisFib W width taps g).output hw (p - 1 - (width - k))) =
      xorOver ((positions taps).filter fun p => width - k < p) fun p => s.getLsbD (k + p - 1 - width) := by
    refine xorOver_congr fun p hp => ?_
    obtain ⟨hmem, hlt⟩ := List.mem_filter.1 hp
    obtain ⟨-, -, htaps⟩ := h
    obtain ⟨-, hpw⟩ := htaps p (List.mem_dedup.1 hmem)
    have hlt' : width - k < p := of_decide_eq_true hlt
    have hindex : p - 1 - (width - k) = k + p - 1 - width := by omega
    rw [hindex, hbelow _ (by omega)]
  rw [output_galoisFib h hw g hk.le, hsum, f2gBit]
  exact xor_eq_comm _ _ _

/-- R168: `F2G` maps the first `width` output bits of the Galois instance to its seed, and only them. -/
theorem f2g_eq_seed_iff {W width : Nat} {taps : List Nat} (h : Accepted W width taps) (hw : Bool) (s : Word W)
    {g : Word W} (hg : Canonical width g) : f2g width taps s = g ↔
      ∀ k, k < width → (builtGaloisFib W width taps g).output hw k = s.getLsbD k := by
  obtain ⟨-, hW, -⟩ := id h
  rw [f2g_eq_iff_bits hW hg]
  constructor
  · intro hbits k
    induction k using Nat.strong_induction_on with
    | _ k ih =>
      exact fun hk => (f2gBit_eq_seed_bit_iff h hw s g hk fun j hj => ih j hj (hj.trans hk)).1 (hbits k hk)
  · exact fun hout k hk =>
      (f2gBit_eq_seed_bit_iff h hw s g hk fun j hj => hout j (hj.trans hk)).2 (hout k hk)

/-- With the seed transformed the Galois output is that of COUNTONES: one recurrence and the same first bits. -/
theorem output_galoisFib_f2g {W width : Nat} {taps : List Nat} (h : Accepted W width taps) (hw : Bool) {s : Word W}
    (hs : Canonical width s) (n : Nat) : (builtGaloisFib W width taps (f2g width taps s)).output hw n =
      (built W .countones width taps s).output hw n := by
  obtain ⟨-, hW, -⟩ := id h
  have hcanonical := f2g_canonical hW taps s
  refine eq_of_recurrence h (a := (builtGaloisFib W width taps (f2g width taps s)).output hw)
    (b := (built W .countones width taps s).output hw) (output_recurrence_of_galoisFib h hw hcanonical)
    (output_recurrence_of_fibonacci h (v := .countones) (by decide) hw hs) (fun k hk => ?_) n
  rw [(f2g_eq_seed_iff h hw s hcanonical).1 rfl k hk]
  exact (Registers.output_eq_state_bit hw (r := built W .countones width taps s) (by simp [built]) hk).symm

/-- Settles O56: a word is recovered from its image as the first output bits of the Galois instance seeded with the
image, which gives both that `F2G` is one to one and that every canonical word is an image. -/
theorem seedTransformMakesGaloisMatchFibonacci : Obligations.SeedTransformMakesGaloisMatchFibonacci := by
  unfold Obligations.SeedTransformMakesGaloisMatchFibonacci
  intro W width taps h
  obtain ⟨-, hW, -⟩ := id h
  refine ⟨fun s hw hs n => ⟨output_galoisFib_f2g h hw hs n, fun hodd => ?_⟩, fun s _ => f2g_canonical hW taps s,
    fun s s' hs hs' heq => Canonical.ext hs hs' fun k hk => ?_, fun g hg => ?_⟩
  · rw [output_galoisFib_f2g h hw hs, output_naive_eq_countones h hodd]
  · have hcanonical := f2g_canonical hW taps s'
    rw [← (f2g_eq_seed_iff h true s hcanonical).1 heq k hk, (f2g_eq_seed_iff h true s' hcanonical).1 rfl k hk]
  · refine ⟨wordOfBits W width ((builtGaloisFib W width taps g).output true), wordOfBits_canonical hW _,
      (f2g_eq_seed_iff h true _ hg).2 fun k hk => ?_⟩
    rw [wordOfBits_getLsbD hW, decide_eq_true hk, Bool.true_and]

/-- Settles O57: `F2G` fixes the seed exactly when the first `width` Galois output bits are the seed's, which are those
of COUNTONES; and bit `k` of `F2G(s)` is `s[k]` exactly when the sum added to it is 0. -/
theorem sameSeedSameOutputIffFixedByTransform : Obligations.SameSeedSameOutputIffFixedByTransform := by
  unfold Obligations.SameSeedSameOutputIffFixedByTransform
  intro W width taps s hw h hs
  obtain ⟨-, hW, -⟩ := id h
  refine ⟨⟨fun hsame => (f2g_eq_seed_iff h hw s hs).2 fun k hk => ?_, fun hfixed n => ?_⟩, ?_⟩
  · rw [hsame k]
    exact Registers.output_eq_state_bit hw (r := built W .countones width taps s) (by simp [built]) hk
  · rw [← output_galoisFib_f2g h hw hs, hfixed]
  · rw [f2g_eq_iff_bits hW hs]
    refine forall₂_congr fun k _ => ?_
    exact xor_eq_left_iff _ _

end Sys2Proof.Machine

/-! PROOFS. COUNTONES and POPCNT are the same machine (R161): twins have twin outcomes, command by command. -/

namespace Sys2Proof.Machine

/-- The outcomes that twins have: next states that are twins, or the same refusal. -/
inductive TwinOutcome : Host.Outcome State Fault Refusal → Host.Outcome State Fault Refusal → Prop
  | next {s t : State} (h : PopcntTwin s t) : TwinOutcome (.next s) (.next t)
  | refused (e : Refusal) : TwinOutcome (.refused e) (.refused e)

theorem TwinOutcome.refl (o : Host.Outcome State Fault Refusal) : TwinOutcome o o := by
  cases o with
  | next s => exact .next (.inl rfl)
  | fault f => cases f
  | refused e => exact .refused e

/-! ## Registers of twins -/

/-- The registers of the POPCNT twin. -/
def Registers.asPopcnt {W : Nat} (r : Registers W) : Registers W := { r with variant := .popcnt }

theorem popcntTwin_of_countones {c : Config} {r : Registers c.W} (hr : r.variant = .countones)
    (ins : List (HostEvent c.W)) (rs : List (Response c.W)) :
    PopcntTwin { params := c, regs := some r, inputs := ins, responses := rs }
      { params := c, regs := some r.asPopcnt, inputs := ins, responses := rs } :=
  .inr ⟨r, rfl, hr, rfl⟩

theorem Registers.clocked_asPopcnt {W : Nat} (hw : Bool) {r : Registers W} (hr : r.variant = .countones) :
    r.asPopcnt.clocked hw = (r.clocked hw).asPopcnt := by
  have hstep : nextWord hw .popcnt r.width r.taps r.tapmask r.state = (r.clocked hw).state := by
    rw [Registers.clocked_of_countones hw hr, nextWord, fbPopcnt_eq_fbParity]
  exact congrArg (fun x => ({ r with variant := .popcnt, state := x } : Registers W)) hstep

theorem Registers.after_asPopcnt {W : Nat} (hw : Bool) {r : Registers W} (hr : r.variant = .countones) (n : Nat) :
    r.asPopcnt.after hw n = (r.after hw n).asPopcnt := by
  induction n generalizing r with
  | zero => rfl
  | succ n ih =>
    rw [Registers.after_succ, Registers.clocked_asPopcnt hw hr]
    exact ih (r := r.clocked hw) hr

theorem Registers.output_asPopcnt {W : Nat} (hw : Bool) {r : Registers W} (hr : r.variant = .countones) (n : Nat) :
    r.asPopcnt.output hw n = r.output hw n := by
  rw [Registers.output, Registers.after_asPopcnt hw hr]
  rfl

/-! ## Commands, steps and runs of twins -/

section Twins
variable {c : Config} {r : Registers c.W} (hr : r.variant = .countones) (ins : List (HostEvent c.W))
  (rs : List (Response c.W))
include hr

theorem exec_operate_twins {i : Instr} (hi : i.format = .O) :
    TwinOutcome (exec i { params := c, regs := some r, inputs := ins, responses := rs })
      (exec i { params := c, regs := some r.asPopcnt, inputs := ins, responses := rs }) := by
  cases i with
  | clock =>
    rw [exec_clock_of_configured rfl, exec_clock_of_configured rfl]
    dsimp only
    rw [Registers.clocked_asPopcnt c.hasPopcnt hr]
    exact .next (popcntTwin_of_countones (r := r.clocked c.hasPopcnt) hr ins _)
  | multiclock n =>
    obtain ⟨hvariant, -, -, -⟩ := Registers.after_configuration c.hasPopcnt n r
    have houtputs : r.asPopcnt.output c.hasPopcnt = r.output c.hasPopcnt :=
      funext (Registers.output_asPopcnt c.hasPopcnt hr)
    rw [exec_multiclock_of_configured rfl, exec_multiclock_of_configured rfl]
    dsimp only
    rw [Registers.after_asPopcnt c.hasPopcnt hr, houtputs]
    exact .next (popcntTwin_of_countones (hvariant.trans hr) ins _)
  | get => exact .next (popcntTwin_of_countones hr ins _)
  | set x => exact .next (popcntTwin_of_countones (r := { r with state := wordOperand c.W x }) hr ins _)
  | taps => exact .next (popcntTwin_of_countones hr ins _)
  | width => exact .next (popcntTwin_of_countones hr ins _)
  | constructNaive | constructCountones | constructPopcnt | constructGalois | constructGaloisFib | tapmask => cases hi

/-- A constructor that succeeds makes the twins equal; every other command leaves them twins. -/
theorem exec_twins (i : Instr) :
    TwinOutcome (exec i { params := c, regs := some r, inputs := ins, responses := rs })
      (exec i { params := c, regs := some r.asPopcnt, inputs := ins, responses := rs }) := by
  cases hi : i.format with
  | O => exact exec_operate_twins hr ins rs hi
  | C =>
    obtain ⟨mk, hmk, width, taps, seed, rfl⟩ := exists_constructor_of_format_C hi
    cases hbuild : build c.W width taps with
    | error e =>
      rw [exec_constructor_of_build_error (s := ⟨c, some r, ins, rs⟩) hbuild hmk,
        exec_constructor_of_build_error (s := ⟨c, some r.asPopcnt, ins, rs⟩) hbuild hmk]
      exact .next (popcntTwin_of_countones hr ins _)
    | ok m =>
      obtain ⟨haccepted, -⟩ := accepted_of_build_ok hbuild
      obtain ⟨v, taps', -, hexec⟩ := exec_constructor_installs haccepted hmk
      rw [hexec, hexec]
      exact .refl _
  | B =>
    obtain ⟨width, taps, rfl⟩ := exists_tapmask_of_format_B hi
    cases hbuild : build c.W width taps with
    | error e =>
      rw [exec_tapmask_of_build_error (s := ⟨c, some r, ins, rs⟩) hbuild,
        exec_tapmask_of_build_error (s := ⟨c, some r.asPopcnt, ins, rs⟩) hbuild]
      exact .next (popcntTwin_of_countones hr ins _)
    | ok m =>
      rw [exec_tapmask_of_build_ok (s := ⟨c, some r, ins, rs⟩) hbuild,
        exec_tapmask_of_build_ok (s := ⟨c, some r.asPopcnt, ins, rs⟩) hbuild]
      exact .next (popcntTwin_of_countones hr ins _)

end Twins

theorem step_twins {s t : State} (h : PopcntTwin s t) : TwinOutcome (step s) (step t) := by
  obtain rfl | ⟨r, hs, hr, rfl⟩ := h
  · exact .refl _
  · obtain ⟨c, regs, ins, rs⟩ := s
    dsimp only at r hs hr ⊢
    subst hs
    match ins with
    | [] => exact .next (popcntTwin_of_countones hr [] rs)
    | .reset :: rest => exact .refl (.next ⟨c, none, rest, rs⟩)
    | .command d :: rest =>
      cases hdecode : decode d with
      | error e =>
        obtain ⟨op⟩ := e
        simp only [step, hdecode]
        exact .refused _
      | ok i =>
        rw [step_command rfl hdecode, step_command rfl hdecode]
        exact exec_twins hr rest rs i

theorem run_twins (n : Nat) {s t : State} (h : PopcntTwin s t) : TwinOutcome (run n s) (run n t) := by
  induction n generalizing s t with
  | zero => exact .next h
  | succ n ih =>
    rw [run, run]
    generalize hs : step s = o, ht : step t = o'
    have hstep : TwinOutcome o o' := hs ▸ ht ▸ step_twins h
    cases hstep with
    | next h' => exact ih h'
    | refused e => exact .refused e

/-- Settles O45: the outcomes of the two runs are those of twins. -/
theorem countonesAndPopcntAreTheSameMachine : Obligations.CountonesAndPopcntAreTheSameMachine := by
  unfold Obligations.CountonesAndPopcntAreTheSameMachine
  intro n s t h
  have hrun := run_twins n h
  refine ⟨fun s' hs => ?_, fun e he => ?_⟩
  · rw [hs] at hrun
    generalize ht : run n t = o at hrun
    cases hrun with
    | next h' => exact ⟨_, rfl, h'⟩
  · rw [he] at hrun
    generalize ht : run n t = o at hrun
    cases hrun with
    | refused => rfl

end Sys2Proof.Machine
